-- ==== Sys2Proof/Word.lean ====
section
/-! DEFINITION. The two bit-vector types every other file uses (spec/10_state.md R20, spec/20_memory.md R56). -/

namespace Sys2Proof

/-- One byte: the block's only access width (R56). -/
abbrev Byte := BitVec 8

/-- A 16-bit check value: the width of `crc` and of the received check value (R20, R135). -/
abbrev Crc16 := BitVec 16

end Sys2Proof
end

