-- ==== Sys2Proof/Config.lean ====
section
/-! DEFINITION. The block's fixed parameters, from the table of spec/00_scope.md R6.
The one open parameter, `CNT_W`, is carried by the state as plain data (log entry 1), so that every statement
about all states is a statement about every width; here stand its least value and its reference value.
The three scale factors of R6 stand in Machine/Operands.lean, beside the fields they scale. -/

namespace Sys2Proof.Config

/-- `FLAG`, the frame delimiter (R6). -/
abbrev flag : Byte := 0x7E

/-- `ESC`, the escape byte (R6). -/
abbrev escByte : Byte := 0x7D

/-- `XMASK`, the mask an escaped byte is XORed with (R6). -/
abbrev xmask : Byte := 0x20

/-- `POLY`, the low 16 bits of the CRC generator polynomial (R6). -/
abbrev poly : Crc16 := 0x1021

/-- `CRC_SEED`, the CRC's start value of a frame (R6). -/
abbrev crcSeed : Crc16 := 0x0000

/-- `ID_TR`, the Traffic Report message ID (R6). -/
abbrev idTr : Byte := 0x14

/-- `ID_OGA`, the Ownship Geometric Altitude message ID (R6). -/
abbrev idOga : Byte := 0x0B

/-- `LEN_TR`, the fixed Traffic Report payload length, ID included, CRC excluded (R6). -/
abbrev lenTr : Nat := 28

/-- `LEN_OGA`, the fixed Ownship Geometric Altitude payload length, ID included (R6). -/
abbrev lenOga : Nat := 5

/-- The least width `CNT_W` may have (R6: "any value >= 5"). -/
abbrev cntWMin : Nat := 5

/-- The reference value of `CNT_W` (R6); the width of the block `State.reset` describes (log entry 1). -/
abbrev cntWReference : Nat := 16

end Sys2Proof.Config
end

