-- ==== Sys2Proof/Syntax.lean ====
section
/-! DEFINITION. The instructions: one constructor per row of spec/opcode_table.json (spec/30_encoding.md R73, R75, R78).
Seven classes of a `BYTE` transaction, the two control transactions, and the three rows that a frame's message ID
selects at its closing flag. A row's fixed byte is no operand, and its don't-care `esc` bit is none either (R74). -/

namespace Sys2Proof

/-- The opcode table's rows. The operand of a byte class is the byte `b` of the transaction; the operand of
`dispatchUnknown` is the message ID. -/
inductive Instr where
  /-- `HUNT_FLAG`: a flag in IDLE (R103). -/
  | huntFlag
  /-- `HUNT_DISCARD`: a byte other than the flag in IDLE (R104). -/
  | huntDiscard (b : Byte)
  /-- `FRAME_END`: a flag in FRAMING, whatever `esc` (R105). -/
  | frameEnd
  /-- `ESCAPE`: the escape byte in FRAMING with `esc` = 0 (R106). -/
  | escape
  /-- `DATA`: any other byte in FRAMING with `esc` = 0 (R107). -/
  | data (b : Byte)
  /-- `ESCAPED_DATA`: a byte other than the flag in FRAMING with `esc` = 1 (R108). -/
  | escapedData (b : Byte)
  /-- `TERMINATED_BYTE`: any byte in TERMINATED (R109). -/
  | terminatedByte (b : Byte)
  /-- `SHUTDOWN`: the explicit end of input (R243). -/
  | shutdown
  /-- `RESET`: the return to the reset state (R244). -/
  | reset
  /-- `DISPATCH_TR`: message ID 0x14 (R153). -/
  | dispatchTr
  /-- `DISPATCH_OGA`: message ID 0x0B (R154). -/
  | dispatchOga
  /-- `DISPATCH_UNKNOWN`: any other message ID (R155). -/
  | dispatchUnknown (id : Byte)
  deriving DecidableEq, Repr

end Sys2Proof
end

