-- ==== Sys2Proof/WellFormed.lean ====
section
/-! DEFINITION. Which instruction terms are instructions of the block: the conditions on the operand byte in the tables of
spec/30_encoding.md R73 and R78. A term that breaks one names a byte that belongs to another row. -/

namespace Sys2Proof

/-- The row's own condition on its operand (R73, R78). -/
def Instr.wellFormed : Instr → Bool
  | .huntFlag => true
  | .huntDiscard b => b != Config.flag
  | .frameEnd => true
  | .escape => true
  | .data b => b != Config.flag && b != Config.escByte
  | .escapedData b => b != Config.flag
  | .terminatedByte _ => true
  | .shutdown => true
  | .reset => true
  | .dispatchTr => true
  | .dispatchOga => true
  | .dispatchUnknown id => id != Config.idTr && id != Config.idOga

end Sys2Proof
end

