-- ==== Sys2Proof/Decode.lean ====
section
/-! DEFINITION. The decoder, total on any bytes and rejecting by name, and after it the encoder.

Two encodings exist (spec/30_encoding.md). A transaction is one 16-bit port word, sent low byte first: bits 10..0 are the
decode word `W = mode ++ esc ++ b` of R74. R75 says the two control transactions are strobes of their own, "not decoded
from W"; the model gives them bits 11 (`SHUTDOWN`) and 12 (`RESET`) of the port word, with every other bit 0, and
reserves bits 15..13 (DESIGN CHOICE, log entry 3). A message ID is one byte (R78). -/

namespace Sys2Proof

/-- Why a list of bytes is no instruction. -/
inductive DecodeError where
  /-- The mode field of a port word is `0b11`, which R21 reserves and R74 says "matches no row". -/
  | reservedMode
  /-- A port word with a bit above bit 10 set that is neither control strobe's word (log entry 3). -/
  | reservedBits
  /-- Neither one byte (a message ID) nor two (a port word). -/
  | badLength
  deriving DecidableEq, Repr

/-- The framer's decode: the class of byte `b` under `mode` and `esc` (R73; the mode bits are R21's). -/
def classify (mode : BitVec 2) (esc : Bool) (b : Byte) : Except DecodeError Instr :=
  if mode = 0b00 then
    .ok (if b = Config.flag then .huntFlag else .huntDiscard b)
  else if mode = 0b01 then
    .ok (if b = Config.flag then .frameEnd
      else if esc then .escapedData b
      else if b = Config.escByte then .escape
      else .data b)
  else if mode = 0b10 then
    .ok (.terminatedByte b)
  else
    .error .reservedMode

/-- The dispatcher's decode: the row a message ID selects (R78). -/
def messageIdRow (id : Byte) : Instr :=
  if id = Config.idTr then .dispatchTr
  else if id = Config.idOga then .dispatchOga
  else .dispatchUnknown id

/-- The port word of the `SHUTDOWN` strobe (log entry 3). -/
def shutdownWord : BitVec 16 := 0x0800

/-- The port word of the `RESET` strobe (log entry 3). -/
def resetWord : BitVec 16 := 0x1000

/-- The decode word `W` as a port word with no strobe (R74). -/
def byteWord (mode : BitVec 2) (esc : Bool) (b : Byte) : BitVec 16 :=
  0#5 ++ mode ++ BitVec.ofBool esc ++ b

/-- The decode of a port word. -/
def decodeWord (w : BitVec 16) : Except DecodeError Instr :=
  if w.extractLsb' 11 5 = 0 then
    classify (w.extractLsb' 9 2) (w.getLsbD 8) (w.extractLsb' 0 8)
  else if w = shutdownWord then .ok .shutdown
  else if w = resetWord then .ok .reset
  else .error .reservedBits

/-- The decoder: one byte is a message ID, two are a port word, low byte first. -/
def decode : List Byte → Except DecodeError Instr
  | [id] => .ok (messageIdRow id)
  | [lo, hi] => decodeWord (hi ++ lo)
  | _ => .error .badLength

/-- A port word as the two bytes the decoder reads. -/
def wordBytes (w : BitVec 16) : List Byte :=
  [w.extractLsb' 0 8, w.extractLsb' 8 8]

/-- The encoder, from the rows' match values (R74) and message IDs (R78). A don't-care `esc` bit is sent as 0, which is
what `esc` is in IDLE and TERMINATED (R22). -/
def encode : Instr → List Byte
  | .huntFlag => wordBytes 0x007E
  | .huntDiscard b => wordBytes (0x0000 ||| b.setWidth 16)
  | .frameEnd => wordBytes 0x027E
  | .escape => wordBytes 0x027D
  | .data b => wordBytes (0x0200 ||| b.setWidth 16)
  | .escapedData b => wordBytes (0x0300 ||| b.setWidth 16)
  | .terminatedByte b => wordBytes (0x0400 ||| b.setWidth 16)
  | .shutdown => wordBytes shutdownWord
  | .reset => wordBytes resetWord
  | .dispatchTr => [0x14]
  | .dispatchOga => [0x0B]
  | .dispatchUnknown id => [id]

/-- The bytes of the host's table word: a row of at most 8 bits is a message ID, a longer one a port word. -/
def tableWordBytes (nbits w : Nat) : List Byte :=
  if nbits ≤ 8 then [BitVec.ofNat 8 w] else [BitVec.ofNat 8 w, BitVec.ofNat 8 (w / 256)]

/-- The largest number the bytes of `tableWordBytes` can hold, plus one. -/
def tableWordBound (nbits : Nat) : Nat :=
  if nbits ≤ 8 then 2 ^ 8 else 2 ^ 16

/-- The instruction the decoder reads from an instruction whose bits are `w`, numbered as spec/opcode_table.json numbers
them; none where the decoder rejects it or `w` does not fit. -/
def decodeTableWord (nbits w : Nat) : Option Instr :=
  if w < tableWordBound nbits then
    match decode (tableWordBytes nbits w) with
    | .ok i => some i
    | .error _ => none
  else none

/-! ### The table-driven decoder of R74
The same decode by `match`/`mask` pairs and priorities, so that the class function can be held against the table. -/

/-- One byte-class row of spec/opcode_table.json. -/
structure ByteRow where
  /-- The row's match value over `W`. -/
  pattern : BitVec 11
  /-- The row's mask over `W`. -/
  mask : BitVec 11
  /-- Where several rows match, the lowest number wins. -/
  priority : Nat
  /-- The instruction, given the byte field of `W`. -/
  row : Byte → Instr

/-- The byte-class rows, in the table's order (R74). -/
def byteRows : List ByteRow :=
  [⟨0x07E, 0x6FF, 0, fun _ => .huntFlag⟩,
   ⟨0x000, 0x600, 1, fun b => .huntDiscard b⟩,
   ⟨0x27E, 0x6FF, 0, fun _ => .frameEnd⟩,
   ⟨0x27D, 0x7FF, 1, fun _ => .escape⟩,
   ⟨0x200, 0x700, 2, fun b => .data b⟩,
   ⟨0x300, 0x700, 1, fun b => .escapedData b⟩,
   ⟨0x400, 0x600, 0, fun b => .terminatedByte b⟩]

/-- The row matches the decode word: the bits the mask selects are the match value's. -/
def ByteRow.matchesWord (r : ByteRow) (w : BitVec 11) : Bool :=
  w &&& r.mask == r.pattern

/-- The winner so far against one more row: only a matching row of strictly lower priority number takes its place. -/
def ByteRow.better (w : BitVec 11) (best : Option ByteRow) (r : ByteRow) : Option ByteRow :=
  if r.matchesWord w then
    match best with
    | none => some r
    | some q => if r.priority < q.priority then some r else some q
  else best

/-- The decode of `W` by the table: of the matching rows, the one with the lowest priority number (R74). -/
def tableDecode (w : BitVec 11) : Option Instr :=
  (byteRows.foldl (ByteRow.better w) none).map (fun r => r.row (w.extractLsb' 0 8))

end Sys2Proof
end

