-- ==== Sys2Proof/Machine/State.lean ====
section
/-! DEFINITION. The machine's state as plain data, the events it emits, the reasons a step can stop, and reset.

Seven fields of `State` are the block's registers, which spec/10_state.md R20 calls "exactly" the block's state. `cntW` is
the one open parameter of R6. The last three fields are the model's own: they hold the other agent's side of the
transactions (R8, R9), that is what the host presents and what it has observed (R245), and no rule of the block reads
them. The block has no memory, no register file, no program counter and no control register (R30 to R32, R50). -/

namespace Sys2Proof.Machine

/-- The Stream Processor's resting states (R21). `0b11` is reserved, no rule writes it, and R21 lets a model leave it out. -/
inductive Mode where
  | idle
  | framing
  | terminated
  deriving DecidableEq, Repr

/-- An input transaction (R8). -/
inductive Transaction where
  | byte (b : Byte)
  | shutdown
  | reset
  deriving DecidableEq, Repr

/-- One transaction as the host presents it, with whether the host takes the event of its step, should it have one
(R305; log entry 4). -/
structure Offer where
  tx : Transaction
  hostTakes : Bool
  deriving DecidableEq, Repr

/-- The descriptor an `ERR` event carries: fixed-width codes on the failure port (R271). -/
structure ErrorDescriptor where
  kind : BitVec 2
  cause : BitVec 1
  idValid : Bool
  id : Byte
  crcValid : Bool
  rxCrc : Crc16
  calcCrc : Crc16
  deriving DecidableEq, Repr

/-- The TrafficReport record (R170). Raw fields keep their wire width; a validity flag is a Bool; an engineering value is
the exact integer or rational of its rule, whose range the table of R170 gives. -/
structure TrafficReport where
  tag : Byte
  id : Byte
  alertStatus : BitVec 4
  addressType : BitVec 4
  participantAddress : BitVec 24
  latitudeRaw : BitVec 24
  latitudeDeg : Rat
  longitudeRaw : BitVec 24
  longitudeDeg : Rat
  hasValidPosition : Bool
  altitudeRaw : BitVec 12
  hasValidAltitude : Bool
  altitudeFt : Int
  trackHeadingType : BitVec 4
  reportStatus : BitVec 4
  airGroundState : BitVec 2
  navigationIntegrityCategory : BitVec 4
  navigationAccuracyCategoryForPosition : BitVec 4
  horizontalVelocityRaw : BitVec 12
  hasValidHorizontalVelocity : Bool
  horizontalVelocityKt : Nat
  verticalVelocityRaw : BitVec 12
  hasValidVerticalVelocity : Bool
  verticalVelocityFpm : Int
  trackHeading : Byte
  trackHeadingDeg : Rat
  emitterCategory : Byte
  callsign : Vector Byte 8
  callsignLength : Nat
  emergencyPriorityCode : BitVec 4
  spare : BitVec 4
  deriving DecidableEq, Repr

/-- The OwnshipGeometricAltitude record (R220). -/
structure OwnshipGeometricAltitude where
  tag : Byte
  id : Byte
  geoAltitudeRaw : BitVec 16
  geoAltitudeFt : Int
  verticalWarning : Bool
  verticalFigureOfMeritRaw : BitVec 15
  hasValidVFOM : Bool
  verticalFigureOfMerit : Nat
  deriving DecidableEq, Repr

/-- An output event (R28): `MSG` of a record on the success output or `ERR` of a descriptor on the failure output. -/
inductive Event where
  | trafficReport (r : TrafficReport)
  | ownshipGeometricAltitude (r : OwnshipGeometricAltitude)
  | error (d : ErrorDescriptor)
  deriving DecidableEq, Repr

/-- The whole state of the model. -/
structure State where
  /-- `mode`, 2 bits (R21). -/
  mode : Mode
  /-- `esc`, 1 bit: an escape is pending (R22). -/
  esc : Bool
  /-- `cnt`, `CNT_W` bits: bytes of frame content so far, saturating at `CNT_MAX` (R23). -/
  cnt : Nat
  /-- `buf[0..27]`: the first 28 bytes of frame content (R25). -/
  buf : Vector Byte 28
  /-- `crc`: the running CRC of the frame content except its last two bytes (R26). -/
  crc : Crc16
  /-- `t_old`: the second-to-last byte of frame content (R27). -/
  tOld : Byte
  /-- `t_new`: the last byte of frame content (R27). -/
  tNew : Byte
  /-- `CNT_W`, the block's build parameter (R6); no step writes it (log entry 1). -/
  cntW : Nat
  /-- The model's own: the transactions the host will present, next first (R8, R59; log entry 2). -/
  input : List Offer
  /-- The model's own: the output event stream, oldest first (R11 `emit`, R245; log entry 2). -/
  events : List Event
  /-- The model's own: for each transaction presented so far, whether it was accepted (R245; log entry 2). -/
  responses : List Bool
  deriving DecidableEq, Repr

/-- Why the machine stops. -/
inductive Fault where
  /-- Raised by `step` when the instruction emitted an event and the host never takes it: R305 calls the block "stuck: it
  has no further step". Safe: nothing is claimed of what such a host would see. -/
  | eventNotTaken
  deriving DecidableEq, Repr

/-- Why a transaction is turned away. -/
inductive Refusal where
  /-- Raised by an arm of `exec` for an instruction with no meaning; no arm does. Safe. -/
  | notModelled (mnemonic : String)
  /-- Raised by the meaning of `TERMINATED_BYTE` (R109: "`refuse`. The transaction is not accepted, no register changes,
  nothing is emitted"). Safe: `step` records the refusal and goes on with the host's next transaction (log entry 5). -/
  | byteAfterShutdown
  /-- Raised by `step` for a transaction whose port word the decoder rejects: the reserved mode `0b11` (spec/93 I2:
  "refuse"). Safe: `Mode` has no such value, so no state raises it. -/
  | reservedMode
  deriving DecidableEq, Repr

/-- The block after `RESET` and at power-up (R300), with the reference counter width (log entry 1), nothing presented by
the host and nothing observed by it. -/
def State.reset : State where
  mode := .idle
  esc := false
  cnt := 0
  buf := Vector.replicate 28 0x00
  crc := 0x0000
  tOld := 0x00
  tNew := 0x00
  cntW := Config.cntWReference
  input := []
  events := []
  responses := []

end Sys2Proof.Machine
end

