-- ==== Sys2Proof/Machine/Crc.lean ====
section
/-! DEFINITION. The CRC function (spec/41_crc_validator.md R130 to R132). -/

namespace Sys2Proof.Machine

/-- One of the eight shifts that build a table entry (R130). -/
def crcShift (c : Crc16) : Crc16 :=
  (c <<< 1) ^^^ (if c.getLsbD 15 then Config.poly else 0x0000)

/-- `n` shifts in a row. -/
def crcShifts : Nat → Crc16 → Crc16
  | 0, c => c
  | n + 1, c => crcShifts n (crcShift c)

/-- `TABLE[i]` (R130), computed, as R35 allows. -/
def crcTable (i : Byte) : Crc16 :=
  crcShifts 8 (i ++ 0#8)

/-- `CrcStep(c, b)`: the byte enters at the low end, after the lookup on the old high byte (R131). -/
def crcStep (c : Crc16) (b : Byte) : Crc16 :=
  crcTable (c.extractLsb' 8 8) ^^^ (c <<< 8) ^^^ b.setWidth 16

/-- `CRC(s)`: the left fold of `CrcStep` from the seed (R132). -/
def crcOf (s : List Byte) : Crc16 :=
  s.foldl crcStep Config.crcSeed

end Sys2Proof.Machine
end

