-- ==== Sys2Proof/Machine/Ops.lean ====
section
/-! DEFINITION. The operations the meanings share: the framer's two primitives, the output primitives `emit` and `raise`, and the
error descriptors. The block has no traps (spec/60_exceptions.md R275): `raise` is what it has in the place of taking an
exception, and there is nothing to return from (R276). -/

namespace Sys2Proof.Machine

/-- `CNT_MAX` = 2^`CNT_W` - 1 (R6, R23). -/
def State.cntMax (s : State) : Nat :=
  2 ^ s.cntW - 1

/-- `mode <- m`. -/
def State.setMode (m : Mode) (s : State) : State :=
  { s with mode := m }

/-- `esc <- e`. -/
def State.setEsc (e : Bool) (s : State) : State :=
  { s with esc := e }

/-- `StartFrame()`: clears the per-frame state and does not write `mode` (R101). -/
def State.startFrame (s : State) : State :=
  { s with
    esc := false
    cnt := 0
    crc := Config.crcSeed
    tOld := 0x00
    tNew := 0x00
    buf := Vector.replicate 28 0x00 }

/-- `crc` after one more byte has left the two-byte hold-back (R102). -/
def State.crcAfterPush (s : State) : Crc16 :=
  if 2 ≤ s.cnt then crcStep s.crc s.tOld else s.crc

/-- `buf` after byte `x` of frame content (R102): bytes 28 and beyond are not stored. -/
def State.bufAfterPush (s : State) (x : Byte) : Vector Byte 28 :=
  if h : s.cnt < 28 then s.buf.set s.cnt x h else s.buf

/-- `cnt` after one more byte, saturating (R23, R102). -/
def State.cntAfterPush (s : State) : Nat :=
  if s.cnt = s.cntMax then s.cntMax else s.cnt + 1

/-- `PushByte(x)`: every register is computed from the old values (R102). -/
def State.pushByte (x : Byte) (s : State) : State :=
  { s with
    crc := s.crcAfterPush
    tOld := s.tNew
    tNew := x
    buf := s.bufAfterPush x
    cnt := s.cntAfterPush }

/-- `emit(ev)`: appends to the output event stream (R11). -/
def State.emit (ev : Event) (s : State) : State :=
  { s with events := s.events ++ [ev] }

/-- `raise`: emits `ERR(descriptor)`. No state is saved, no mode changes and nothing is vectored (R11, R275). -/
def State.raise (d : ErrorDescriptor) (s : State) : State :=
  s.emit (.error d)

/-- Error kind code 1 (R270). -/
def kindChecksum : BitVec 2 := 1
/-- Error kind code 2 (R270). -/
def kindUnknownMessage : BitVec 2 := 2
/-- Error kind code 3 (R270). -/
def kindTruncated : BitVec 2 := 3
/-- Checksum cause code 0 (R270). -/
def causeMismatch : BitVec 1 := 0
/-- Checksum cause code 1 (R270). -/
def causeShortFrame : BitVec 1 := 1

/-- ChecksumError, cause SHORT_FRAME (R134, R271). -/
def shortFrameError : ErrorDescriptor :=
  ⟨kindChecksum, causeShortFrame, false, 0x00, false, 0x0000, 0x0000⟩

/-- ChecksumError, cause MISMATCH, with the received and the computed value (R136, R271). -/
def mismatchError (rx computed : Crc16) : ErrorDescriptor :=
  ⟨kindChecksum, causeMismatch, false, 0x00, true, rx, computed⟩

/-- UnknownMessageError, with the raw ID (R155, R271). -/
def unknownMessageError (id : Byte) : ErrorDescriptor :=
  ⟨kindUnknownMessage, 0, true, id, false, 0x0000, 0x0000⟩

/-- TruncatedMessageError of a known ID (R153, R154, R271). -/
def truncatedError (id : Byte) : ErrorDescriptor :=
  ⟨kindTruncated, 0, true, id, false, 0x0000, 0x0000⟩

/-- TruncatedMessageError of an empty payload, which has no ID (R151, R271). -/
def emptyPayloadError : ErrorDescriptor :=
  ⟨kindTruncated, 0, false, 0x00, false, 0x0000, 0x0000⟩

/-- `p` = `cnt` - 2, the payload length at a closing flag whose check value matched (R137, R150). -/
def State.payloadLength (s : State) : Nat :=
  s.cnt - 2

/-- The received check value: the last two content bytes read little-endian (R53, R135). -/
def State.rxCrc (s : State) : Crc16 :=
  s.tOld.setWidth 16 ||| (s.tNew.setWidth 16 <<< 8)

/-- The message ID, payload byte 0 (R152). -/
def State.messageId (s : State) : Byte :=
  s.buf[0]

end Sys2Proof.Machine
end

