-- ==== Sys2Proof/Machine/Framer.lean ====
section
/-! DEFINITION. The Byte Unstuffer / Framer: the meanings of the byte classes but `FRAME_END` (spec/40_framer.md R103 to R109). -/

namespace Sys2Proof.Machine

/-- Meaning of `HUNT_FLAG`: the flag opens the first frame (R103). -/
def execHuntFlag (s : State) : Host.Outcome State Fault Refusal :=
  .next (s.startFrame.setMode .framing)

/-- Meaning of `HUNT_DISCARD`: no register changes and nothing is reported (R104). -/
def execHuntDiscard (_b : Byte) (s : State) : Host.Outcome State Fault Refusal :=
  .next s

/-- Meaning of `ESCAPE`: arms the escape; no content byte is added (R106). -/
def execEscape (s : State) : Host.Outcome State Fault Refusal :=
  .next (s.setEsc true)

/-- Meaning of `DATA`: the byte is appended as it is (R107). -/
def execData (b : Byte) (s : State) : Host.Outcome State Fault Refusal :=
  .next (s.pushByte b)

/-- Meaning of `ESCAPED_DATA`: the escape is consumed and the byte is appended XORed with `XMASK` (R108). -/
def execEscapedData (b : Byte) (s : State) : Host.Outcome State Fault Refusal :=
  .next ((s.setEsc false).pushByte (b ^^^ Config.xmask))

/-- Meaning of `TERMINATED_BYTE`: "`refuse`. The transaction is not accepted, no register changes, nothing is emitted"
(R109). A refusal is not an error event (R286). -/
def execTerminatedByte (_b : Byte) (_s : State) : Host.Outcome State Fault Refusal :=
  .refused .byteAfterShutdown

end Sys2Proof.Machine
end

