-- ==== Sys2Proof/Machine/Operands.lean ====
section
/-! DEFINITION. Operand assembly: the bit positions of every field of the two message layouts (spec/30_encoding.md R76, R77, R79)
and the engineering transforms of the fields (spec/43_traffic_report.md, spec/44_ownship_geometric_altitude.md).
Multi-byte fields are big-endian: the byte at the lower index is the more significant (spec/20_memory.md R54). -/

namespace Sys2Proof.Machine

/-! ### Scale factors (R6) -/

/-- `VV_LSB_FPM`: 64 ft/min per LSB (R6). -/
def vvLsbFpm : Int := 64
/-- `HV_LSB_KT`: 1 knot per LSB (R6). -/
def hvLsbKt : Nat := 1
/-- `VFOM_LSB_M`: 1 metre per LSB (R6). -/
def vfomLsbM : Nat := 1

/-! ### Big-endian concatenation (R10, R54) -/

/-- `a ++ b` as a 16-bit value. -/
def be16 (a b : Byte) : BitVec 16 := a ++ b
/-- `a ++ b ++ c` as a 24-bit value. -/
def be24 (a b c : Byte) : BitVec 24 := a ++ b ++ c
/-- Bits 7:4 of a byte. -/
def hiNibble (b : Byte) : BitVec 4 := b.extractLsb' 4 4
/-- Bits 3:0 of a byte. -/
def loNibble (b : Byte) : BitVec 4 := b.extractLsb' 0 4

/-! ### Traffic Report fields (R76) -/

/-- `m[0]` (R171). -/
def trId (m : Vector Byte 28) : Byte := m[0]
/-- `m[1][7:4]` (R172). -/
def trAlertStatus (m : Vector Byte 28) : BitVec 4 := hiNibble m[1]
/-- `m[1][3:0]` (R173). -/
def trAddressType (m : Vector Byte 28) : BitVec 4 := loNibble m[1]
/-- `m[2] ++ m[3] ++ m[4]` (R174). -/
def trParticipantAddress (m : Vector Byte 28) : BitVec 24 := be24 m[2] m[3] m[4]
/-- `m[5] ++ m[6] ++ m[7]` (R175). -/
def trLatitudeRaw (m : Vector Byte 28) : BitVec 24 := be24 m[5] m[6] m[7]
/-- `m[8] ++ m[9] ++ m[10]` (R176). -/
def trLongitudeRaw (m : Vector Byte 28) : BitVec 24 := be24 m[8] m[9] m[10]
/-- `(m[11] ++ m[12])[15:4]` (R178). -/
def trAltitudeRaw (m : Vector Byte 28) : BitVec 12 := (be16 m[11] m[12]).extractLsb' 4 12
/-- `zext_2(m[12][3])` (R181). -/
def trAirGroundState (m : Vector Byte 28) : BitVec 2 := (m[12].extractLsb' 3 1).setWidth 2
/-- `zext_4(m[12][2])` (R180). -/
def trReportStatus (m : Vector Byte 28) : BitVec 4 := (m[12].extractLsb' 2 1).setWidth 4
/-- `zext_4(m[12][1:0])` (R179). -/
def trTrackHeadingType (m : Vector Byte 28) : BitVec 4 := (m[12].extractLsb' 0 2).setWidth 4
/-- `m[13][7:4]` (R182). -/
def trNic (m : Vector Byte 28) : BitVec 4 := hiNibble m[13]
/-- `m[13][3:0]` (R183). -/
def trNacp (m : Vector Byte 28) : BitVec 4 := loNibble m[13]
/-- `(m[14] ++ m[15])[15:4]` (R184). -/
def trHorizontalVelocityRaw (m : Vector Byte 28) : BitVec 12 := (be16 m[14] m[15]).extractLsb' 4 12
/-- `(m[15] ++ m[16])[11:0]` (R185). -/
def trVerticalVelocityRaw (m : Vector Byte 28) : BitVec 12 := (be16 m[15] m[16]).extractLsb' 0 12
/-- `m[17]` (R186). -/
def trTrackHeading (m : Vector Byte 28) : Byte := m[17]
/-- `m[18]` (R187). -/
def trEmitterCategory (m : Vector Byte 28) : Byte := m[18]
/-- `raw[0..7] <- m[19..26]` (R188). -/
def trCallsignRaw (m : Vector Byte 28) : Vector Byte 8 :=
  #v[m[19], m[20], m[21], m[22], m[23], m[24], m[25], m[26]]
/-- `m[27][7:4]` (R189). -/
def trEmergencyPriorityCode (m : Vector Byte 28) : BitVec 4 := hiNibble m[27]
/-- `m[27][3:0]` (R190). -/
def trSpare (m : Vector Byte 28) : BitVec 4 := loNibble m[27]

/-! ### Ownship Geometric Altitude fields (R77) -/

/-- `m[0]` (R221). -/
def ogaId (m : Vector Byte 5) : Byte := m[0]
/-- `m[1] ++ m[2]` (R222). -/
def ogaGeoAltitudeRaw (m : Vector Byte 5) : BitVec 16 := be16 m[1] m[2]
/-- `m[3][7]` (R223). -/
def ogaVerticalWarning (m : Vector Byte 5) : Bool := m[3].getLsbD 7
/-- `(m[3] ++ m[4])[14:0]` (R224). -/
def ogaVfomRaw (m : Vector Byte 5) : BitVec 15 := (be16 m[3] m[4]).extractLsb' 0 15

/-! ### Engineering transforms
`sext_N` is `BitVec.toInt` (R11). Degrees are exact rationals; nothing is rounded (R11, R12). -/

/-- `sext_24(raw) * 180 / 2^23` (R175, R176). -/
def degreesOfRaw (raw : BitVec 24) : Rat := mkRat (raw.toInt * 180) (2 ^ 23)
/-- `raw * 25 - 1000` (R178). -/
def altitudeOfRaw (raw : BitVec 12) : Int := raw.toNat * 25 - 1000
/-- `raw * HV_LSB_KT` (R184). -/
def horizontalVelocityOfRaw (raw : BitVec 12) : Nat := raw.toNat * hvLsbKt
/-- `sext_12(raw) * VV_LSB_FPM` (R185). -/
def verticalVelocityOfRaw (raw : BitVec 12) : Int := raw.toInt * vvLsbFpm
/-- `trackHeading * 360 / 256` (R186). -/
def headingOfRaw (raw : Byte) : Rat := mkRat (raw.toNat * 360) 256
/-- `sext_16(raw) * 5` (R222). -/
def geoAltitudeOfRaw (raw : BitVec 16) : Int := raw.toInt * 5
/-- `raw * VFOM_LSB_M` (R224). -/
def vfomOfRaw (raw : BitVec 15) : Nat := raw.toNat * vfomLsbM

/-! ### Callsign trimming (R188) -/

/-- A byte that is trimmed from the end of a callsign: NUL or space. -/
def isPadding (b : Byte) : Bool := b == 0x00 || b == 0x20

/-- The loop of R188 from `k`: while the byte before position `k` is padding, step back. -/
def trimLength (raw : Vector Byte 8) : Nat → Nat
  | 0 => 0
  | k + 1 => if isPadding (raw.toList.getD k 0x00) then trimLength raw k else k + 1

/-- `callsignLength`. -/
def callsignLengthOf (raw : Vector Byte 8) : Nat := trimLength raw 8

/-- `callsign`: the kept bytes, then 0x00. -/
def callsignOf (raw : Vector Byte 8) : Vector Byte 8 :=
  Vector.ofFn fun i => if i.val < callsignLengthOf raw then raw[i] else 0x00

end Sys2Proof.Machine
end

