-- ==== Sys2Proof/Machine/Flags.lean ====
section
/-! DEFINITION. The validity flags carried in the output records (spec/10_state.md R33). Each is computed from the record's raw
fields and nothing else; the block holds no condition codes. Its one flag held as state, `esc`, is written by the
primitives of Machine/Ops.lean. -/

namespace Sys2Proof.Machine

/-- `hasValidPosition`: not (latitude = longitude = NIC = 0) (R177). -/
def hasValidPositionOf (lat lon : BitVec 24) (nic : BitVec 4) : Bool :=
  !(lat == 0 && lon == 0 && nic == 0)

/-- `hasValidAltitude`: the raw value is not all ones (R178). -/
def hasValidAltitudeOf (raw : BitVec 12) : Bool := raw != 0xFFF

/-- `hasValidHorizontalVelocity`: the raw value is not all ones (R184). -/
def hasValidHorizontalVelocityOf (raw : BitVec 12) : Bool := raw != 0xFFF

/-- `hasValidVerticalVelocity`: the raw value is not all ones; 0x800 is valid (R185). -/
def hasValidVerticalVelocityOf (raw : BitVec 12) : Bool := raw != 0xFFF

/-- `hasValidVFOM`: the raw value is not all ones (R224). -/
def hasValidVfomOf (raw : BitVec 15) : Bool := raw != 0x7FFF

end Sys2Proof.Machine
end

