-- ==== Sys2Proof/Machine/DecodeOwnship.lean ====
section
/-! DEFINITION. The Ownship Geometric Altitude field decoder (spec/44_ownship_geometric_altitude.md R220): a pure function of the 5
payload bytes (R225). Where `hasValidVFOM` is 0 the figure of merit is 0 (R224; log entry 6). -/

namespace Sys2Proof.Machine

/-- `DecodeOGA(m[0..4])` (R220 to R224). -/
def decodeOga (m : Vector Byte 5) : OwnshipGeometricAltitude where
  tag := Config.idOga
  id := ogaId m
  geoAltitudeRaw := ogaGeoAltitudeRaw m
  geoAltitudeFt := geoAltitudeOfRaw (ogaGeoAltitudeRaw m)
  verticalWarning := ogaVerticalWarning m
  verticalFigureOfMeritRaw := ogaVfomRaw m
  hasValidVFOM := hasValidVfomOf (ogaVfomRaw m)
  verticalFigureOfMerit := if hasValidVfomOf (ogaVfomRaw m) then vfomOfRaw (ogaVfomRaw m) else 0

end Sys2Proof.Machine
end

