-- ==== Sys2Proof/Machine/DecodeTrafficReport.lean ====
section
/-! DEFINITION. The Traffic Report field decoder (spec/43_traffic_report.md R170): a pure function of the 28 payload bytes (R192).
Where a validity flag is 0 the engineering value is 0, the spec's chosen default (R178, R184, R185; log entry 6). -/

namespace Sys2Proof.Machine

/-- `DecodeTR(m[0..27])` (R170 to R190). -/
def decodeTr (m : Vector Byte 28) : TrafficReport where
  tag := Config.idTr
  id := trId m
  alertStatus := trAlertStatus m
  addressType := trAddressType m
  participantAddress := trParticipantAddress m
  latitudeRaw := trLatitudeRaw m
  latitudeDeg := degreesOfRaw (trLatitudeRaw m)
  longitudeRaw := trLongitudeRaw m
  longitudeDeg := degreesOfRaw (trLongitudeRaw m)
  hasValidPosition := hasValidPositionOf (trLatitudeRaw m) (trLongitudeRaw m) (trNic m)
  altitudeRaw := trAltitudeRaw m
  hasValidAltitude := hasValidAltitudeOf (trAltitudeRaw m)
  altitudeFt := if hasValidAltitudeOf (trAltitudeRaw m) then altitudeOfRaw (trAltitudeRaw m) else 0
  trackHeadingType := trTrackHeadingType m
  reportStatus := trReportStatus m
  airGroundState := trAirGroundState m
  navigationIntegrityCategory := trNic m
  navigationAccuracyCategoryForPosition := trNacp m
  horizontalVelocityRaw := trHorizontalVelocityRaw m
  hasValidHorizontalVelocity := hasValidHorizontalVelocityOf (trHorizontalVelocityRaw m)
  horizontalVelocityKt :=
    if hasValidHorizontalVelocityOf (trHorizontalVelocityRaw m)
    then horizontalVelocityOfRaw (trHorizontalVelocityRaw m) else 0
  verticalVelocityRaw := trVerticalVelocityRaw m
  hasValidVerticalVelocity := hasValidVerticalVelocityOf (trVerticalVelocityRaw m)
  verticalVelocityFpm :=
    if hasValidVerticalVelocityOf (trVerticalVelocityRaw m)
    then verticalVelocityOfRaw (trVerticalVelocityRaw m) else 0
  trackHeading := trTrackHeading m
  trackHeadingDeg := headingOfRaw (trTrackHeading m)
  emitterCategory := trEmitterCategory m
  callsign := callsignOf (trCallsignRaw m)
  callsignLength := callsignLengthOf (trCallsignRaw m)
  emergencyPriorityCode := trEmergencyPriorityCode m
  spare := trSpare m

end Sys2Proof.Machine
end

