-- ==== Sys2Proof/Machine/Dispatcher.lean ====
section
/-! DEFINITION. The Message Dispatcher (spec/42_dispatcher.md): the three rows a message ID selects, and `DISPATCH` over them. The rows
write no register of the block; each emits exactly one event. -/

namespace Sys2Proof.Machine

/-- The 28 bytes `m[0..27]` a Traffic Report is decoded from: the whole frame store (R150, R153). -/
def State.trSlice (s : State) : Vector Byte 28 := s.buf

/-- The 5 bytes `m[0..4]` an Ownship Geometric Altitude is decoded from (R150, R154). -/
def State.ogaSlice (s : State) : Vector Byte 5 :=
  #v[s.buf[0], s.buf[1], s.buf[2], s.buf[3], s.buf[4]]

/-- `DISPATCH_TR`: fewer than `LEN_TR` payload bytes is a truncated message, more are ignored (R153, R156). -/
def dispatchTr (s : State) : State :=
  if s.payloadLength < Config.lenTr then s.raise (truncatedError Config.idTr)
  else s.emit (.trafficReport (decodeTr s.trSlice))

/-- `DISPATCH_OGA`: fewer than `LEN_OGA` payload bytes is a truncated message, more are ignored (R154, R156). -/
def dispatchOga (s : State) : State :=
  if s.payloadLength < Config.lenOga then s.raise (truncatedError Config.idOga)
  else s.emit (.ownshipGeometricAltitude (decodeOga s.ogaSlice))

/-- `DISPATCH_UNKNOWN`: the raw ID is reported; the length is not checked (R155). -/
def dispatchUnknown (id : Byte) (s : State) : State :=
  s.raise (unknownMessageError id)

/-- `DISPATCH(p)` (R150): an empty payload has no ID (R151); else the ID selects the row (R78). -/
def dispatch (s : State) : State :=
  if s.payloadLength = 0 then s.raise emptyPayloadError
  else if s.messageId = Config.idTr then dispatchTr s
  else if s.messageId = Config.idOga then dispatchOga s
  else dispatchUnknown s.messageId s

/-- Meaning of `DISPATCH_TR`, the row on its own (R153). -/
def execDispatchTr (s : State) : Host.Outcome State Fault Refusal :=
  .next (dispatchTr s)

/-- Meaning of `DISPATCH_OGA`, the row on its own (R154). -/
def execDispatchOga (s : State) : Host.Outcome State Fault Refusal :=
  .next (dispatchOga s)

/-- Meaning of `DISPATCH_UNKNOWN`, the row on its own (R155). -/
def execDispatchUnknown (id : Byte) (s : State) : Host.Outcome State Fault Refusal :=
  .next (dispatchUnknown id s)

end Sys2Proof.Machine
end

