-- ==== Sys2Proof/Machine/StreamProcessor.lean ====
section
/-! DEFINITION. The CRC Validator and the Stream Processor: `VALIDATE` (spec/41_crc_validator.md R133), `FrameEnd` and the two control
transactions (spec/45_stream_processor.md R240, R243, R244). -/

namespace Sys2Proof.Machine

/-- `VALIDATE`: the error it raises, or none where the check value matches (R133 to R137). -/
def validate (s : State) : Option ErrorDescriptor :=
  if s.cnt = 1 then some shortFrameError
  else if s.rxCrc ≠ s.crc then some (mismatchError s.rxCrc s.crc)
  else none

/-- `FrameEnd()`: nothing for an empty frame, else `VALIDATE` and then `DISPATCH` (R240, R241). -/
def frameEnd (s : State) : State :=
  if s.cnt = 0 then s
  else
    match validate s with
    | some d => s.raise d
    | none => dispatch s

/-- Meaning of `FRAME_END`: `FrameEnd` on the old register values, then `StartFrame`, in one step (R105, R242). -/
def execFrameEnd (s : State) : Host.Outcome State Fault Refusal :=
  .next (frameEnd s).startFrame

/-- Meaning of `SHUTDOWN`: a partial frame or a pending escape is discarded without an event (R243). -/
def execShutdown (s : State) : Host.Outcome State Fault Refusal :=
  .next (s.startFrame.setMode .terminated)

/-- Meaning of `RESET`: accepted in every mode (R244). -/
def execReset (s : State) : Host.Outcome State Fault Refusal :=
  .next (s.startFrame.setMode .idle)

end Sys2Proof.Machine
end

