-- ==== Sys2Proof/Machine/Dispatch.lean ====
section
/-! DEFINITION. One arm per instruction (spec/45_stream_processor.md R245 for the byte classes and the control transactions,
spec/42_dispatcher.md R150 for the message rows). -/

namespace Sys2Proof.Machine

def exec (i : Instr) (s : State) : Host.Outcome State Fault Refusal :=
  match i with
  | .huntFlag => Sys2Proof.Machine.execHuntFlag s
  | .huntDiscard b => Sys2Proof.Machine.execHuntDiscard b s
  | .frameEnd => Sys2Proof.Machine.execFrameEnd s
  | .escape => Sys2Proof.Machine.execEscape s
  | .data b => Sys2Proof.Machine.execData b s
  | .escapedData b => Sys2Proof.Machine.execEscapedData b s
  | .terminatedByte b => Sys2Proof.Machine.execTerminatedByte b s
  | .shutdown => Sys2Proof.Machine.execShutdown s
  | .reset => Sys2Proof.Machine.execReset s
  | .dispatchTr => Sys2Proof.Machine.execDispatchTr s
  | .dispatchOga => Sys2Proof.Machine.execDispatchOga s
  | .dispatchUnknown id => Sys2Proof.Machine.execDispatchUnknown id s

end Sys2Proof.Machine
end

