-- ==== Sys2Proof/Machine/Ports.lean ====
section
/-! DEFINITION. The block's ports at the transaction level (spec/00_scope.md R8, spec/92_eei_decisions.md D26): how a presented
transaction becomes the decoder's bytes, what a step does with the host's side of the state, and how the host's table
words are presented. -/

namespace Sys2Proof.Machine

/-- The encoding of `mode` (R21). -/
def modeBits : Mode → BitVec 2
  | .idle => 0b00
  | .framing => 0b01
  | .terminated => 0b10

/-- The mode a two-bit field encodes; none for the reserved `0b11` (R21). -/
def modeOfBits (b : BitVec 2) : Option Mode :=
  if b = 0b00 then some .idle
  else if b = 0b01 then some .framing
  else if b = 0b10 then some .terminated
  else none

/-- The port word of a transaction: `W = mode ++ esc ++ b` for a byte (R74), a strobe's word for a control transaction
(R75, log entry 3). -/
def transactionWord (s : State) : Transaction → BitVec 16
  | .byte b => byteWord (modeBits s.mode) s.esc b
  | .shutdown => shutdownWord
  | .reset => resetWord

/-- The bytes the decoder reads for a transaction presented in state `s`. -/
def transactionBytes (s : State) (tx : Transaction) : List Byte :=
  wordBytes (transactionWord s tx)

/-- `in_ready` of D26 at a transaction boundary: a byte is accepted in every mode but TERMINATED (R109). -/
def State.inReady (s : State) : Bool := s.mode != .terminated

/-- The host's next transaction has been presented: it leaves the input. -/
def State.consume (rest : List Offer) (s : State) : State :=
  { s with input := rest }

/-- The host observes whether the transaction was accepted (R245). -/
def State.respond (accepted : Bool) (s : State) : State :=
  { s with responses := s.responses ++ [accepted] }

/-- A step with no transaction presented: "Between transactions it simply holds its state" (R285, log entry 7). -/
def idleStep (s : State) : Host.Outcome State Fault Refusal :=
  .next s

/-- A transaction whose port word the decoder rejects (spec/93 I2). -/
def undecodedStep : Host.Outcome State Fault Refusal :=
  .refused .reservedMode

/-- The end of a step whose instruction answered `out` from state `s`, the transaction consumed.
An accepted transaction is answered so, unless it emitted an event that the host never takes: the step then does not
complete and the block is stuck (R305, D2). A refused byte changes nothing but the host's side: the host observes the
refusal and its next transaction is presented (R109, R245, log entry 5). -/
def settle (takes : Bool) (s : State) (out : Host.Outcome State Fault Refusal) :
    Host.Outcome State Fault Refusal :=
  match out with
  | .next t =>
    if s.events.length < t.events.length && !takes then .fault .eventNotTaken
    else .next (t.respond true)
  | .fault f => .fault f
  | .refused .byteAfterShutdown => .next (s.respond false)
  | .refused r => .refused r

/-- A transaction put before what the host was going to present, its event to be taken. -/
def State.present (tx : Transaction) (s : State) : State :=
  { s with input := ⟨tx, true⟩ :: s.input }

/-- A frame whose payload is `id` and the stored bytes 1 to 27, complete and with the check bytes of its CRC: the registers
stand as they do before its closing flag (R29). -/
def State.withFrameOf (id : Byte) (s : State) : State :=
  let m := s.buf.set 0 id
  let c := crcOf m.toList
  { s with
    mode := .framing
    esc := false
    cnt := 30
    buf := m
    crc := c
    tOld := c.extractLsb' 0 8
    tNew := c.extractLsb' 8 8 }

/-- The state in which the very next step decodes and runs the instruction of a port word: the word's mode and escape
bits in the registers and its byte, or its strobe, presented. A word the decoder rejects leaves `s` as it is. -/
def placePortWord (w : BitVec 16) (s : State) : State :=
  if w = shutdownWord then s.present .shutdown
  else if w = resetWord then s.present .reset
  else if w.extractLsb' 11 5 = 0 then
    match modeOfBits (w.extractLsb' 9 2) with
    | some m => ((s.setMode m).setEsc (w.getLsbD 8)).present (.byte (w.extractLsb' 0 8))
    | none => s
  else s

/-- The state in which the very next step, a closing flag, dispatches on message ID `id`: a message row runs only inside
that step (R246, log entry 8). -/
def placeMessageId (id : Byte) (s : State) : State :=
  (s.withFrameOf id).present (.byte Config.flag)

end Sys2Proof.Machine
end

