-- ==== Sys2Proof/Machine/Step.lean ====
section
/-! DEFINITION. One step of the model: one transaction of the host's input, decoded and run (spec/00_scope.md R8,
spec/45_stream_processor.md R245). The block fetches nothing (R63): the host presents. -/

namespace Sys2Proof.Machine

/-- One step. -/
def step (s : State) : Host.Outcome State Fault Refusal :=
  match s.input with
  | [] => idleStep s
  | o :: rest =>
    match decode (transactionBytes s o.tx) with
    | .ok i => settle o.hostTakes (s.consume rest) (exec i (s.consume rest))
    | .error _ => undecodedStep

/-- `s` with the table word presented so that the very next step runs its instruction (log entry 8). A row of at most 8
bits is a message ID, a longer one a port word. -/
def State.withFetchWord (s : State) (nbits w : Nat) : State :=
  if nbits ≤ 8 then placeMessageId (BitVec.ofNat 8 w) s else placePortWord (BitVec.ofNat 16 w) s

end Sys2Proof.Machine
end

