-- ==== Sys2Proof/Safety.lean ====
section
/-! DEFINITION. The terms the claims use: which states are consistent, what the block's events should be when they are read off a
frame's whole content, how a host feeds bytes, and how a transmitter makes a frame. Nothing here is used by the machine. -/

namespace Sys2Proof

open Machine

/-! ### Outcomes -/

/-- The next state of an outcome, if it has one. -/
def nextState? : Host.Outcome State Fault Refusal → Option State
  | .next s => some s
  | .fault _ => none
  | .refused _ => none

/-! ### Consistent states (spec/10_state.md R22, R23, R29) -/

/-- Every per-frame register holds the value `StartFrame` writes (R101). -/
structure Cleared (s : State) : Prop where
  esc : s.esc = false
  cnt : s.cnt = 0
  crc : s.crc = 0
  tOld : s.tOld = 0
  tNew : s.tNew = 0
  buf : s.buf = Vector.replicate 28 0

/-- The registers stand to the frame content `F` as R29 lists. -/
structure HoldsContent (s : State) (F : List Byte) : Prop where
  cnt : s.cnt = min F.length s.cntMax
  buf : ∀ i (_ : i < 28) (_ : i < F.length), s.buf[i] = F[i]
  crc : s.crc = crcOf (F.take (F.length - 2))
  tNew : 1 ≤ F.length → F[F.length - 1]? = some s.tNew
  tOld : 2 ≤ F.length → F[F.length - 2]? = some s.tOld

/-- The invariant of the block: a legal counter width (R6); in FRAMING the registers hold the content of some frame (R29);
in IDLE and TERMINATED every per-frame register is clear (R22, R23, R101, R300). -/
structure Consistent (s : State) : Prop where
  width : Config.cntWMin ≤ s.cntW
  framing : s.mode = .framing → ∃ F, HoldsContent s F
  resting : s.mode ≠ .framing → Cleared s

/-! ### Events read off the whole content (the source's unbounded buffer, R29) -/

/-- The event of a payload whose check value matched, from the payload as a list (R150 to R156). -/
def payloadEvent (p : List Byte) : Event :=
  match p with
  | [] => .error emptyPayloadError
  | id :: _ =>
    if id = 0x14 then
      if p.length < 28 then .error (truncatedError id)
      else .trafficReport (decodeTr (Vector.ofFn fun i => p.getD i.val 0))
    else if id = 0x0B then
      if p.length < 5 then .error (truncatedError id)
      else .ownshipGeometricAltitude (decodeOga (Vector.ofFn fun i => p.getD i.val 0))
    else .error (unknownMessageError id)

/-- The check value a content of at least two bytes carries: its last two bytes, little-endian (R72, R135). -/
def contentCheckValue (F : List Byte) : Crc16 :=
  F.getD (F.length - 1) 0 ++ F.getD (F.length - 2) 0

/-- The events of a frame with content `F` (R240, R277). -/
def frameEvents (F : List Byte) : List Event :=
  if F.length = 0 then []
  else if F.length = 1 then [.error shortFrameError]
  else if contentCheckValue F = crcOf (F.take (F.length - 2)) then
    [payloadEvent (F.take (F.length - 2))]
  else [.error (mismatchError (contentCheckValue F) (crcOf (F.take (F.length - 2))))]

/-! ### The host and the transmitter -/

/-- A host `feed` of bytes, each the next transaction, every event taken (R8). -/
def offersOf (bs : List Byte) : List Offer :=
  bs.map fun b => ⟨.byte b, true⟩

/-- `s` with the bytes presented before what the host was going to present. -/
def offerBytes (bs : List Byte) (s : State) : State :=
  { s with input := offersOf bs ++ s.input }

/-- `feed(bytes)`: as many steps as there are bytes, from `s` with the bytes presented (R8). -/
def feed (bs : List Byte) (s : State) : Host.Outcome State Fault Refusal :=
  Host.Core.run Sys2Proof.core bs.length (offerBytes bs s)

/-- The bytes a transmitter sends for one content byte (R71). -/
def stuffByte (b : Byte) : List Byte :=
  if b = 0x7E ∨ b = 0x7D then [0x7D, b ^^^ 0x20] else [b]

/-- `STUFF` (R71). -/
def stuff (c : List Byte) : List Byte :=
  c.flatMap stuffByte

/-- `CRCLE(p)` (R82). -/
def crcBytes (p : List Byte) : List Byte :=
  [(crcOf p).extractLsb' 0 8, (crcOf p).extractLsb' 8 8]

/-- `FRAME(p)` (R82). -/
def frameBytes (p : List Byte) : List Byte :=
  [0x7E] ++ stuff (p ++ crcBytes p) ++ [0x7E]

/-! ### Two blocks that differ in the counter's width only (R24) -/

/-- The same block at two counter widths: every register but `cnt` is equal, and the two counters count the same number
of bytes, each up to its own `CNT_MAX`. -/
structure SameButWidth (s t : State) : Prop where
  widthLeft : Config.cntWMin ≤ s.cntW
  widthRight : Config.cntWMin ≤ t.cntW
  count : ∃ n, s.cnt = min n s.cntMax ∧ t.cnt = min n t.cntMax
  rest : t = { s with cnt := t.cnt, cntW := t.cntW }

/-! ### Two blocks that differ in stale values only (R25, R27, R300) -/

/-- The same block but for the values no rule reads: entries of `buf` at or above `cnt`, `t_new` before one byte of content and
`t_old` before two. -/
structure SameButStale (s t : State) : Prop where
  width : Config.cntWMin ≤ s.cntW
  buf : ∀ i (_ : i < 28), i < s.cnt → t.buf[i] = s.buf[i]
  tNew : 1 ≤ s.cnt → t.tNew = s.tNew
  tOld : 2 ≤ s.cnt → t.tOld = s.tOld
  rest : t = { s with buf := t.buf, tNew := t.tNew, tOld := t.tOld }

/-! ### Message bits (R132) -/

/-- The bits of a byte, most significant first. -/
def byteBits (b : Byte) : List Bool :=
  [b.getLsbD 7, b.getLsbD 6, b.getLsbD 5, b.getLsbD 4, b.getLsbD 3, b.getLsbD 2, b.getLsbD 1, b.getLsbD 0]

/-- The bits of a byte sequence, in the order R132 takes them. -/
def messageBits (s : List Byte) : List Bool :=
  s.flatMap byteBits

/-- The bits of a check value, most significant first. -/
def crcBits (c : Crc16) : List Bool :=
  byteBits (c.extractLsb' 8 8) ++ byteBits (c.extractLsb' 0 8)

end Sys2Proof
end

