-- ==== Sys2Proof/Certificates/Slice0/Obligations.lean ====
section
/-! DEFINITION. The statements for the provers, each a Prop about the machine. A docstring names the rules of spec/ a statement
formalises; where it rests on a choice of the model or on an inference the spec marks as its own, the docstring says so. -/

open Sys2Proof Sys2Proof.Machine

/-! ## Encoding -/

/-- Decode and encode agree: decoding an encoded well-formed instruction of any row gives it back, at every operand value
(spec/30_encoding.md sections 2 and 3; the control strobes' words are the model's, log entry 3). -/
def Obligations.DecodeOfEncodeIsIdentity : Prop :=
  ∀ i : Instr, i.wellFormed = true → decode (encode i) = .ok i

/-- Every instruction the decoder reads is well-formed, and encoding it gives the bytes back, except that the rows with a
don't-care `esc` bit are also read with that bit (bit 0 of the second byte) set (spec/30_encoding.md section 2). -/
def Obligations.DecodedBytesReencodeUpToDontCareBit : Prop :=
  ∀ (bs : List Byte) (i : Instr), decode bs = .ok i →
    i.wellFormed = true ∧
    (encode i = bs ∨
      ((i = .huntFlag ∨ (∃ b, i = .huntDiscard b) ∨ i = .frameEnd ∨ ∃ b, i = .terminatedByte b) ∧
        ∃ lo hi : Byte, bs = [lo, hi] ∧ encode i = [lo, hi ^^^ 0x01]))

/-- The reserved mode `0b11` matches no row, whatever the escape bit and the byte, and bytes that are neither a message ID nor
a port word are rejected (spec/30_encoding.md section 2). Every 16-bit word with a bit above bit 10 that is neither control
strobe's word is rejected too; that clause, and the two-byte spelling, are the model's choice (log entry 3). -/
def Obligations.ReservedWordsAreRejected : Prop :=
  (∀ (e : Bool) (b : Byte), decode (wordBytes (byteWord 0b11 e b)) = .error .reservedMode) ∧
  decode [] = .error .badLength ∧
  (∀ (a b c : Byte) (rest : List Byte), decode (a :: b :: c :: rest) = .error .badLength) ∧
  ∀ w : BitVec 16, w.extractLsb' 11 5 ≠ 0 → w ≠ shutdownWord → w ≠ resetWord →
    decode (wordBytes w) = .error .reservedBits

/-- A word of every row, written out bit by bit, decodes to its row: the byte classes and the message rows from the match and
encoding columns of spec/opcode_table.json. The spelling of an 11-bit decode word as two bytes, low byte first, and the
words of `SHUTDOWN` and `RESET`, for which the spec has none (R75), are the model's choice (log entry 3). -/
def Obligations.WrittenOutWordsDecodeToTheirRows : Prop :=
  decode [0b01111110, 0b00000000] = .ok .huntFlag ∧
  decode [0b01111101, 0b00000000] = .ok (.huntDiscard 0x7D) ∧
  decode [0b01111110, 0b00000010] = .ok .frameEnd ∧
  decode [0b01111110, 0b00000011] = .ok .frameEnd ∧
  decode [0b01111101, 0b00000010] = .ok .escape ∧
  decode [0b01000001, 0b00000010] = .ok (.data 0x41) ∧
  decode [0b01111101, 0b00000011] = .ok (.escapedData 0x7D) ∧
  decode [0b01111110, 0b00000100] = .ok (.terminatedByte 0x7E) ∧
  decode [0b00000000, 0b00001000] = .ok .shutdown ∧
  decode [0b00000000, 0b00010000] = .ok .reset ∧
  decode [0b00010100] = .ok .dispatchTr ∧
  decode [0b00001011] = .ok .dispatchOga ∧
  decode [0b11111111] = .ok (.dispatchUnknown 0xFF)

/-- The class function and the match/mask/priority table of R74 (an inference the spec marks as its own) agree on all 2048 decode
words, the reserved mode's included. -/
def Obligations.TableDecodeAgreesOnEveryDecodeWord : Prop :=
  ∀ w : BitVec 11, (decode (wordBytes (0#5 ++ w))).toOption = tableDecode w

/-- R73: a presented byte is classified by `mode`, `esc` and its value; the classes cover every combination; and in IDLE and
TERMINATED a consistent block has `esc` = 0. -/
def Obligations.PresentedByteDecodesToItsClass : Prop :=
  ∀ (s : State) (b : Byte),
    (s.mode = .idle → b = 0x7E → decode (transactionBytes s (.byte b)) = .ok .huntFlag) ∧
    (s.mode = .idle → b ≠ 0x7E → decode (transactionBytes s (.byte b)) = .ok (.huntDiscard b)) ∧
    (s.mode = .framing → b = 0x7E → decode (transactionBytes s (.byte b)) = .ok .frameEnd) ∧
    (s.mode = .framing → s.esc = false → b = 0x7D → decode (transactionBytes s (.byte b)) = .ok .escape) ∧
    (s.mode = .framing → s.esc = false → b ≠ 0x7E → b ≠ 0x7D →
      decode (transactionBytes s (.byte b)) = .ok (.data b)) ∧
    (s.mode = .framing → s.esc = true → b ≠ 0x7E → decode (transactionBytes s (.byte b)) = .ok (.escapedData b)) ∧
    (s.mode = .terminated → decode (transactionBytes s (.byte b)) = .ok (.terminatedByte b)) ∧
    (Consistent s → s.mode ≠ .framing → s.esc = false)

/-- R78: the message ID selects the dispatcher's row, and any other ID yields UnknownMessageError with the raw ID, wherever the row
has its operands: a payload of at least one byte, so at least three content bytes, with that ID first (R150, R152). -/
def Obligations.MessageIdSelectsItsRow : Prop :=
  decode [0x14] = .ok .dispatchTr ∧ decode [0x0B] = .ok .dispatchOga ∧
  ∀ id : Byte, id ≠ 0x14 → id ≠ 0x0B → decode [id] = .ok (.dispatchUnknown id) ∧
    ∀ s : State, 3 ≤ s.cnt → s.buf[0] = id → ∃ t, exec (.dispatchUnknown id) s = .next t ∧
      t.events = s.events ++ [.error ⟨2, 0, true, id, false, 0x0000, 0x0000⟩]

/-! ## The step -/

/-- A step takes the next presented transaction and runs exactly the instruction its bytes decode to: a next state is answered
as accepted, unless it holds a new event that the host never takes; a refused byte changes nothing but the host's side (the
last clause is the model's, log entry 5). -/
def Obligations.StepRunsTheDecodedInstruction : Prop :=
  ∀ (s : State) (o : Offer) (rest : List Offer) (i : Instr),
    s.input = o :: rest → decode (transactionBytes s o.tx) = .ok i →
    (∀ t, exec i { s with input := rest } = .next t → (t.events = s.events ∨ o.hostTakes = true) →
      step s = .next { t with responses := t.responses ++ [true] }) ∧
    (exec i { s with input := rest } = .refused .byteAfterShutdown →
      step s = .next { s with input := rest, responses := s.responses ++ [false] })

/-- R305: the block is stuck exactly where the step's instruction emitted an event and the host does not take it. -/
def Obligations.StuckExactlyWhenEventIsNotTaken : Prop :=
  ∀ s : State, step s = .fault .eventNotTaken ↔
    ∃ o rest i t, s.input = o :: rest ∧ o.hostTakes = false ∧ decode (transactionBytes s o.tx) = .ok i ∧
      exec i { s with input := rest } = .next t ∧ t.events ≠ s.events

/-- With no transaction presented the state is held (R285; that a step is possible then is the model's choice, log entry 7). -/
def Obligations.StepWithNoTransactionHoldsState : Prop :=
  ∀ s : State, s.input = [] → step s = .next s

/-- One step consumes exactly one transaction, is answered once, and produces zero or one event, after the earlier ones
(spec/00_scope.md section 5, spec/45_stream_processor.md section 3). That this holds of a byte presented in TERMINATED too, which
the block refuses, is the model's reading (log entry 5). -/
def Obligations.StepConsumesOneTransactionAndEmitsAtMostOneEvent : Prop :=
  ∀ (s s' : State) (o : Offer) (rest : List Offer), s.input = o :: rest → step s = .next s' →
    s'.input = rest ∧ s'.cntW = s.cntW ∧ (∃ a, s'.responses = s.responses ++ [a]) ∧
    ∃ evs, evs.length ≤ 1 ∧ s'.events = s.events ++ evs

/-- No byte value, state or transaction is undefined: every step answers a next state, but for an event the host does not take
(spec/60_exceptions.md section 3, spec/45_stream_processor.md section 3). Three parts of this are the model's: that the host's
taking is a bit beside the transaction (log entry 4), that a byte the block refuses in TERMINATED gives a next state with the
refusal recorded, so that no step refuses (log entry 5), and that a step with nothing presented exists (log entry 7). -/
def Obligations.EveryStepCompletesUnlessEventIsNotTaken : Prop :=
  ∀ s : State, (∃ s', step s = .next s') ∨
    (step s = .fault .eventNotTaken ∧ ∃ o rest, s.input = o :: rest ∧ o.hostTakes = false)

/-- Only a flag that closes a non-empty frame produces an event (spec/45_stream_processor.md section 1, spec/60_exceptions.md
section 3). -/
def Obligations.EventsComeOnlyFromClosingFlagsOfNonEmptyFrames : Prop :=
  ∀ s s' : State, step s = .next s' → s'.events ≠ s.events →
    s.mode = .framing ∧ s.cnt ≠ 0 ∧ ∃ o rest, s.input = o :: rest ∧ o.tx = .byte 0x7E

/-- No instruction of any row writes the host's side of the state or the counter's width: its input, its answers, `CNT_W`
(spec/10_state.md section 1). -/
def Obligations.InstructionsLeaveTheHostSideAlone : Prop :=
  ∀ (i : Instr) (s t : State), exec i s = .next t →
    t.input = s.input ∧ t.responses = s.responses ∧ t.cntW = s.cntW

/-! ## Reset and the control transactions -/

/-- R300: at power-up, and after `RESET` from any state, every register holds its reset value; and the values of the registers that
are not observable before they are overwritten change no output: two blocks that differ only in stale values make the same
step, with the same events and answers, and still differ only in stale values. -/
def Obligations.EveryRegisterHoldsItsResetValue : Prop :=
  (State.reset.mode = .idle ∧ State.reset.esc = false ∧ State.reset.cnt = 0 ∧ State.reset.crc = 0x0000 ∧
    State.reset.tOld = 0x00 ∧ State.reset.tNew = 0x00 ∧ ∀ i (_ : i < 28), State.reset.buf[i] = 0x00) ∧
  (∀ s : State, ∃ t, exec .reset s = .next t ∧
    t.mode = .idle ∧ t.esc = false ∧ t.cnt = 0 ∧ t.crc = 0x0000 ∧ t.tOld = 0x00 ∧ t.tNew = 0x00 ∧
    ∀ i (_ : i < 28), t.buf[i] = 0x00) ∧
  ∀ s t : State, SameButStale s t →
    (∀ s', step s = .next s' → ∃ t', step t = .next t' ∧ SameButStale s' t') ∧
    (∀ f, step s = .fault f → step t = .fault f)

/-- R244: `RESET` is accepted in every mode, clears every register and emits nothing, and no other transaction leaves
TERMINATED. -/
def Obligations.ResetCompletesAndAloneLeavesTerminated : Prop :=
  (∀ s : State, exec .reset s = .next { s with
    mode := .idle, esc := false, cnt := 0, crc := 0x0000, tOld := 0x00, tNew := 0x00, buf := Vector.replicate 28 0x00 }) ∧
  (∀ (s : State) (takes : Bool) (rest : List Offer), s.input = ⟨.reset, takes⟩ :: rest →
    ∃ t, step s = .next t ∧ t.mode = .idle ∧ t.events = s.events ∧ t.responses = s.responses ++ [true]) ∧
  (∀ s s' : State, step s = .next s' → s.mode = .terminated → s'.mode ≠ .terminated →
    ∃ o rest, s.input = o :: rest ∧ o.tx = .reset)

/-- R243: `SHUTDOWN` is accepted in every mode, moves to TERMINATED, discards a partial frame or a pending escape without an
event, and changes nothing in a consistent state already in TERMINATED; nothing else ends in TERMINATED. -/
def Obligations.ShutdownCompletesAndAloneTerminates : Prop :=
  (∀ s : State, exec .shutdown s = .next { s with
    mode := .terminated, esc := false, cnt := 0, crc := 0x0000, tOld := 0x00, tNew := 0x00,
    buf := Vector.replicate 28 0x00 }) ∧
  (∀ s : State, Consistent s → s.mode = .terminated → exec .shutdown s = .next s) ∧
  (∀ s s' : State, step s = .next s' → s.mode ≠ .terminated → s'.mode = .terminated →
    ∃ o rest, s.input = o :: rest ∧ o.tx = .shutdown)

/-! ## The framer -/

/-- R103: a flag in IDLE (any `esc` bit of the decode word) opens a frame: FRAMING with every per-frame register clear, nothing
emitted; no transaction but this and `SHUTDOWN` leaves IDLE. -/
def Obligations.HuntFlagCompletesAndOpensTheFrame : Prop :=
  (∀ e : Bool, decode (wordBytes (byteWord 0b00 e 0x7E)) = .ok .huntFlag) ∧
  (∀ s : State, exec .huntFlag s = .next { s with
    mode := .framing, esc := false, cnt := 0, crc := 0x0000, tOld := 0x00, tNew := 0x00,
    buf := Vector.replicate 28 0x00 }) ∧
  (∀ s s' : State, step s = .next s' → s.mode = .idle → s'.mode ≠ .idle →
    ∃ o rest, s.input = o :: rest ∧ (o.tx = .byte 0x7E ∨ o.tx = .shutdown))

/-- R104: a byte other than the flag in IDLE, the escape byte included, completes with no register changed and nothing emitted; so the
bytes of a cut frame up to its closing flag are accepted and leave no trace. -/
def Obligations.HuntDiscardCompletesUnchanged : Prop :=
  (∀ (e : Bool) (b : Byte), b ≠ 0x7E → decode (wordBytes (byteWord 0b00 e b)) = .ok (.huntDiscard b)) ∧
  (∀ (b : Byte) (s : State), exec (.huntDiscard b) s = .next s) ∧
  (∀ (bs : List Byte) (s : State), s.mode = .idle → 0x7E ∉ bs →
    feed bs s = .next { s with responses := s.responses ++ List.replicate bs.length true })

/-- R106: the escape byte in FRAMING with no escape pending arms `esc` and changes nothing else; as the last byte of a feed it leaves
the escape pending, and no content byte is added. -/
def Obligations.EscapeCompletesAndArmsEsc : Prop :=
  decode (wordBytes (byteWord 0b01 false 0x7D)) = .ok .escape ∧
  (∀ s : State, exec .escape s = .next { s with esc := true }) ∧
  (∀ s : State, s.mode = .framing → s.esc = false →
    ∃ t, feed [0x7D] s = .next t ∧ t.esc = true ∧ t.cnt = s.cnt ∧ t.events = s.events)

/-- `DATA` appends the byte by `PushByte` (R102, an inference the spec marks as its own): the held-back byte is folded into the CRC
from the third byte on, byte `cnt` of the store is written while it fits, the count saturates at `CNT_MAX`, and nothing
else changes (spec/40_framer.md sections 1 and 2). -/
def Obligations.DataCompletesAndAppendsTheByte : Prop :=
  ∀ (b : Byte) (s : State), ∃ store : Vector Byte 28,
    exec (.data b) s = .next { s with
      crc := if 2 ≤ s.cnt then crcStep s.crc s.tOld else s.crc
      tOld := s.tNew
      tNew := b
      cnt := if s.cnt = 2 ^ s.cntW - 1 then 2 ^ s.cntW - 1 else s.cnt + 1
      buf := store } ∧
    ∀ i (_ : i < 28), store[i] = if i = s.cnt then b else s.buf[i]

/-- `ESCAPED_DATA` clears `esc` and appends the byte XORed with 0x20 by `PushByte` (R102, an inference the spec marks as its own),
whatever the byte (spec/40_framer.md sections 1 and 2). -/
def Obligations.EscapedDataCompletesAndAppendsTheUnmaskedByte : Prop :=
  ∀ (b : Byte) (s : State), ∃ store : Vector Byte 28,
    exec (.escapedData b) s = .next { s with
      esc := false
      crc := if 2 ≤ s.cnt then crcStep s.crc s.tOld else s.crc
      tOld := s.tNew
      tNew := b ^^^ 0x20
      cnt := if s.cnt = 2 ^ s.cntW - 1 then 2 ^ s.cntW - 1 else s.cnt + 1
      buf := store } ∧
    ∀ i (_ : i < 28), store[i] = if i = s.cnt then b ^^^ 0x20 else s.buf[i]

/-- R109: after shutdown a byte is refused, whatever the byte, and the input-ready signal stays low; only `RESET` leaves TERMINATED, and
`SHUTDOWN` there changes nothing. -/
def Obligations.TerminatedByteIsRefused : Prop :=
  (∀ (e : Bool) (b : Byte), decode (wordBytes (byteWord 0b10 e b)) = .ok (.terminatedByte b)) ∧
  (∀ (b : Byte) (s : State), exec (.terminatedByte b) s = .refused .byteAfterShutdown) ∧
  (∀ s : State, s.mode = .terminated → s.inReady = false) ∧
  (∀ s : State, Consistent s → s.mode = .terminated → exec .shutdown s = .next s) ∧
  (∀ s s' : State, step s = .next s' → s.mode = .terminated → s'.mode ≠ .terminated →
    ∃ o rest, s.input = o :: rest ∧ o.tx = .reset)

/-- A byte presented in TERMINATED is not accepted, no register changes, nothing is emitted, and the host's next transaction is
presented (R109, R286; that the run goes on past the refusal is the model's reading of R245, log entry 5). -/
def Obligations.RefusedByteLeavesEveryRegister : Prop :=
  ∀ (s : State) (b : Byte) (takes : Bool) (rest : List Offer), s.input = ⟨.byte b, takes⟩ :: rest →
    s.mode = .terminated →
    step s = .next { s with input := rest, responses := s.responses ++ [false] }

/-! ## The closing flag -/

/-- R240: at a closing flag the first of these that applies is the frame's one outcome: nothing for an empty frame; SHORT_FRAME;
MISMATCH with the received value (the last two bytes, little-endian) and the computed one; truncated with no ID; the Traffic
Report or its truncation; the Ownship Geometric Altitude or its truncation; unknown message. Every per-frame register is then
clear, `mode` is as it was, and nothing else changes. -/
def Obligations.FrameEndCompletesWithTheFirstOutcomeThatApplies : Prop :=
  ∀ s : State, exec .frameEnd s = .next { s with
    esc := false, cnt := 0, crc := 0x0000, tOld := 0x00, tNew := 0x00, buf := Vector.replicate 28 0x00
    events := s.events ++
      (if s.cnt = 0 then []
      else if s.cnt = 1 then [.error ⟨1, 1, false, 0x00, false, 0x0000, 0x0000⟩]
      else if s.tNew ++ s.tOld ≠ s.crc then [.error ⟨1, 0, false, 0x00, true, s.tNew ++ s.tOld, s.crc⟩]
      else if s.cnt = 2 then [.error ⟨3, 0, false, 0x00, false, 0x0000, 0x0000⟩]
      else if s.buf[0] = 0x14 then
        (if s.cnt < 30 then [.error ⟨3, 0, true, 0x14, false, 0x0000, 0x0000⟩] else [.trafficReport (decodeTr s.buf)])
      else if s.buf[0] = 0x0B then
        (if s.cnt < 7 then [.error ⟨3, 0, true, 0x0B, false, 0x0000, 0x0000⟩]
        else [.ownshipGeometricAltitude (decodeOga #v[s.buf[0], s.buf[1], s.buf[2], s.buf[3], s.buf[4]])])
      else [.error ⟨2, 0, true, s.buf[0], false, 0x0000, 0x0000⟩]) }

/-- R153: `DISPATCH_TR`, the row of ID 0x14, on a payload of at least one byte (at least three content bytes) with that ID first,
completes with one event, the truncation of a payload shorter than 28 bytes or the decoded record, and writes no register; a
payload of 28 bytes or more has its first 28 in `buf`. -/
def Obligations.DispatchTrCompletesWithRecordOrTruncation : Prop :=
  decode [0x14] = .ok .dispatchTr ∧
  (∀ s : State, 3 ≤ s.cnt → s.buf[0] = 0x14 → exec .dispatchTr s = .next { s with
    events := s.events ++
      [if s.cnt - 2 < 28 then .error ⟨3, 0, true, 0x14, false, 0x0000, 0x0000⟩ else .trafficReport (decodeTr s.buf)] }) ∧
  (∀ (s : State) (F : List Byte), HoldsContent s F → 30 ≤ F.length → ∀ i (_ : i < 28), F[i]? = some s.buf[i])

/-- R154: `DISPATCH_OGA`, the row of ID 0x0B, on a payload of at least one byte (at least three content bytes) with that ID first,
completes with one event, the truncation of a payload shorter than 5 bytes or the record decoded from the
first five bytes, and writes no register. -/
def Obligations.DispatchOgaCompletesWithRecordOrTruncation : Prop :=
  decode [0x0B] = .ok .dispatchOga ∧
  ∀ s : State, 3 ≤ s.cnt → s.buf[0] = 0x0B → exec .dispatchOga s = .next { s with
    events := s.events ++
      [if s.cnt - 2 < 5 then .error ⟨3, 0, true, 0x0B, false, 0x0000, 0x0000⟩
      else .ownshipGeometricAltitude (decodeOga #v[s.buf[0], s.buf[1], s.buf[2], s.buf[3], s.buf[4]])] }

/-- R155: `DISPATCH_UNKNOWN`, the row of the other 254 IDs, on a payload of at least one byte (at least three content bytes) with its ID
first, completes with one UnknownMessageError that carries the raw ID, whatever the length, and writes no
register. -/
def Obligations.DispatchUnknownCompletesWithTheRawId : Prop :=
  (∀ id : Byte, decode [id] = .ok (.dispatchUnknown id) ↔ id ≠ 0x14 ∧ id ≠ 0x0B) ∧
  ∀ (id : Byte) (s : State), 3 ≤ s.cnt → s.buf[0] = id → id ≠ 0x14 → id ≠ 0x0B →
    exec (.dispatchUnknown id) s = .next { s with
    events := s.events ++ [.error ⟨2, 0, true, id, false, 0x0000, 0x0000⟩] }

/-- A closing flag whose check value matched and whose payload is not empty runs exactly the row its message ID decodes to, and then
clears the frame (spec/42_dispatcher.md, DISPATCH). -/
def Obligations.FrameEndRunsTheRowOfItsMessageId : Prop :=
  ∀ s : State, 3 ≤ s.cnt → s.tNew ++ s.tOld = s.crc →
    ∃ i t, decode [s.buf[0]] = .ok i ∧ exec i s = .next t ∧
      exec .frameEnd s = .next { s with
        esc := false, cnt := 0, crc := 0x0000, tOld := 0x00, tNew := 0x00, buf := Vector.replicate 28 0x00
        events := t.events }

/-- Every error a step reports has exactly the fields R271's table gives its kind, an unused field being 0. -/
def Obligations.EveryErrorDescriptorHasItsKindsFields : Prop :=
  ∀ (s s' : State) (d : ErrorDescriptor), step s = .next s' → s'.events = s.events ++ [.error d] →
    (d.kind = 1 ∧ d.idValid = false ∧ d.id = 0x00 ∧
      ((d.cause = 0 ∧ d.crcValid = true ∧ d.rxCrc = s.tNew ++ s.tOld ∧ d.calcCrc = s.crc ∧ d.rxCrc ≠ d.calcCrc) ∨
       (d.cause = 1 ∧ d.crcValid = false ∧ d.rxCrc = 0x0000 ∧ d.calcCrc = 0x0000))) ∨
    (d.kind = 2 ∧ d.cause = 0 ∧ d.idValid = true ∧ d.id = s.buf[0] ∧ d.crcValid = false ∧ d.rxCrc = 0x0000 ∧
      d.calcCrc = 0x0000) ∨
    (d.kind = 3 ∧ d.cause = 0 ∧ d.crcValid = false ∧ d.rxCrc = 0x0000 ∧ d.calcCrc = 0x0000 ∧
      ((d.idValid = true ∧ d.id = s.buf[0] ∧ (d.id = 0x14 ∨ d.id = 0x0B)) ∨
       (d.idValid = false ∧ d.id = 0x00 ∧ s.cnt = 2)))

/-- Every message a step delivers has its `id` and its tag equal to the ID that selected its decoder (R157, an inference the spec
marks as its own). -/
def Obligations.EveryMessageCarriesTheIdOfItsDecoder : Prop :=
  ∀ (s s' : State) (ev : Event), step s = .next s' → s'.events = s.events ++ [ev] →
    (∀ r, ev = .trafficReport r → r.tag = 0x14 ∧ r.id = 0x14 ∧ s.buf[0] = 0x14 ∧ 30 ≤ s.cnt) ∧
    (∀ r, ev = .ownshipGeometricAltitude r → r.tag = 0x0B ∧ r.id = 0x0B ∧ s.buf[0] = 0x0B ∧ 7 ≤ s.cnt)

/-! ## The field decoders -/

/-- R172 to R174, R182, R183, R187, R189, R190: the fields passed through are these digits of the payload bytes, the 24-bit address
big-endian. -/
def Obligations.TrafficReportPassesItsCodesThrough : Prop :=
  ∀ m : Vector Byte 28,
    (decodeTr m).alertStatus.toNat = m[1].toNat / 16 ∧
    (decodeTr m).addressType.toNat = m[1].toNat % 16 ∧
    (decodeTr m).participantAddress.toNat = m[2].toNat * 65536 + m[3].toNat * 256 + m[4].toNat ∧
    (decodeTr m).navigationIntegrityCategory.toNat = m[13].toNat / 16 ∧
    (decodeTr m).navigationAccuracyCategoryForPosition.toNat = m[13].toNat % 16 ∧
    (decodeTr m).emitterCategory = m[18] ∧
    (decodeTr m).emergencyPriorityCode.toNat = m[27].toNat / 16 ∧
    (decodeTr m).spare.toNat = m[27].toNat % 16

/-- R175, R176: latitude and longitude are the 24-bit big-endian fields read as two's complement, times 180/2^23 degrees exactly, in
the range [-180, 180 - 180/2^23], whether or not the position is valid. -/
def Obligations.TrafficReportPositionIsExactDegrees : Prop :=
  ∀ (m : Vector Byte 28) (lat lon : Int),
    lat = m[5].toNat * 65536 + m[6].toNat * 256 + m[7].toNat →
    lon = m[8].toNat * 65536 + m[9].toNat * 256 + m[10].toNat →
    ((decodeTr m).latitudeRaw.toNat : Int) = lat ∧
    (decodeTr m).latitudeDeg = (if lat < 2 ^ 23 then lat else lat - 2 ^ 24 : Int) * 180 / 2 ^ 23 ∧
    -180 ≤ (decodeTr m).latitudeDeg ∧ (decodeTr m).latitudeDeg ≤ 180 - 180 / 2 ^ 23 ∧
    ((decodeTr m).longitudeRaw.toNat : Int) = lon ∧
    (decodeTr m).longitudeDeg = (if lon < 2 ^ 23 then lon else lon - 2 ^ 24 : Int) * 180 / 2 ^ 23 ∧
    -180 ≤ (decodeTr m).longitudeDeg ∧ (decodeTr m).longitudeDeg ≤ 180 - 180 / 2 ^ 23

/-- R177: a position is marked invalid exactly when latitude, longitude and NIC are all zero. -/
def Obligations.PositionIsInvalidExactlyWhenLatLonNicAreZero : Prop :=
  ∀ m : Vector Byte 28, (decodeTr m).hasValidPosition = false ↔
    m[5] = 0 ∧ m[6] = 0 ∧ m[7] = 0 ∧ m[8] = 0 ∧ m[9] = 0 ∧ m[10] = 0 ∧ m[13].toNat < 16

/-- R178: the 12-bit altitude, its all-ones sentinel, and raw * 25 - 1000 ft; 0 when invalid (the spec's chosen default, log
entry 6). -/
def Obligations.TrafficReportAltitudeHasOffsetAndSentinel : Prop :=
  ∀ (m : Vector Byte 28) (raw : Nat), raw = m[11].toNat * 16 + m[12].toNat / 16 →
    (decodeTr m).altitudeRaw.toNat = raw ∧
    ((decodeTr m).hasValidAltitude = true ↔ raw ≠ 0xFFF) ∧
    (decodeTr m).altitudeFt = if raw ≠ 0xFFF then (raw : Int) * 25 - 1000 else 0

/-- R179 to R181: the misc nibble's three codes, each zero-extended to its output width. -/
def Obligations.TrafficReportSplitsTheMiscNibble : Prop :=
  ∀ m : Vector Byte 28,
    (decodeTr m).trackHeadingType.toNat = m[12].toNat % 4 ∧
    (decodeTr m).reportStatus.toNat = m[12].toNat / 4 % 2 ∧
    (decodeTr m).airGroundState.toNat = m[12].toNat / 8 % 2

/-- R184, R185: the two 12-bit velocities that share byte 15, their all-ones sentinels, 1 kt and 64 ft/min a unit, the vertical one
two's complement with 0x800 valid; 0 when invalid (the spec's chosen default, log entry 6). -/
def Obligations.TrafficReportVelocitiesHaveScaleAndSentinel : Prop :=
  ∀ (m : Vector Byte 28) (h v : Nat), h = m[14].toNat * 16 + m[15].toNat / 16 →
    v = m[15].toNat % 16 * 256 + m[16].toNat →
    (decodeTr m).horizontalVelocityRaw.toNat = h ∧
    ((decodeTr m).hasValidHorizontalVelocity = true ↔ h ≠ 0xFFF) ∧
    (decodeTr m).horizontalVelocityKt = (if h ≠ 0xFFF then h else 0) ∧
    (decodeTr m).verticalVelocityRaw.toNat = v ∧
    ((decodeTr m).hasValidVerticalVelocity = true ↔ v ≠ 0xFFF) ∧
    (decodeTr m).verticalVelocityFpm =
      if v ≠ 0xFFF then (if v < 2048 then (v : Int) else (v : Int) - 4096) * 64 else 0

/-- R186: the track heading byte and its degrees, exactly 360/256 a unit. -/
def Obligations.TrafficReportHeadingIsExactDegrees : Prop :=
  ∀ m : Vector Byte 28,
    (decodeTr m).trackHeading = m[17] ∧ (decodeTr m).trackHeadingDeg = (m[17].toNat : Rat) * 360 / 256

/-- R188: `callsignLength` is the shortest length after which every byte of `m[19..26]` is NUL or space; the callsign keeps the bytes
before it and is zero after. -/
def Obligations.CallsignIsTrimmedOfTrailingNulsAndSpaces : Prop :=
  ∀ (m : Vector Byte 28) (k : Nat), k = (decodeTr m).callsignLength →
    k ≤ 8 ∧
    (∀ i (_ : i < 8), k ≤ i → m[19 + i] = 0x00 ∨ m[19 + i] = 0x20) ∧
    (∀ (_ : k - 1 < 8), 0 < k → m[19 + (k - 1)] ≠ 0x00 ∧ m[19 + (k - 1)] ≠ 0x20) ∧
    (∀ i (_ : i < 8), (decodeTr m).callsign[i] = if i < k then m[19 + i] else 0x00)

/-- The ranges of the output table of spec/43_traffic_report.md section 1. -/
def Obligations.TrafficReportFieldsStayInTheirRanges : Prop :=
  ∀ m : Vector Byte 28,
    -1000 ≤ (decodeTr m).altitudeFt ∧ (decodeTr m).altitudeFt ≤ 101350 ∧
    (decodeTr m).horizontalVelocityKt ≤ 4094 ∧
    -131072 ≤ (decodeTr m).verticalVelocityFpm ∧ (decodeTr m).verticalVelocityFpm ≤ 131008 ∧
    (decodeTr m).trackHeadingType.toNat ≤ 3 ∧ (decodeTr m).reportStatus.toNat ≤ 1 ∧
    (decodeTr m).airGroundState.toNat ≤ 1 ∧ (decodeTr m).callsignLength ≤ 8 ∧
    0 ≤ (decodeTr m).trackHeadingDeg ∧ (decodeTr m).trackHeadingDeg ≤ 11475 / 32

/-- R222 to R224: the geometric altitude is the 16-bit big-endian field read as two's complement, times 5 ft, with no sentinel; the
warning is bit 7 of byte 3; the figure of merit is the low 15 bits of bytes 3 and 4, 1 m a unit, with the all-ones sentinel;
0 when invalid (the spec's chosen default, log entry 6). -/
def Obligations.OwnshipFieldsFollowTheirLayout : Prop :=
  ∀ (m : Vector Byte 5) (g v : Nat), g = m[1].toNat * 256 + m[2].toNat →
    v = m[3].toNat % 128 * 256 + m[4].toNat →
    (decodeOga m).geoAltitudeRaw.toNat = g ∧
    (decodeOga m).geoAltitudeFt = (if g < 32768 then (g : Int) else (g : Int) - 65536) * 5 ∧
    ((decodeOga m).verticalWarning = true ↔ 128 ≤ m[3].toNat) ∧
    (decodeOga m).verticalFigureOfMeritRaw.toNat = v ∧
    ((decodeOga m).hasValidVFOM = true ↔ v ≠ 0x7FFF) ∧
    (decodeOga m).verticalFigureOfMerit = if v ≠ 0x7FFF then v else 0

/-! ## The CRC -/

/-- The table entries and the check values that spec/41_crc_validator.md section 1 and spec/95_test_vectors.md section 2.1 give. -/
def Obligations.CrcReproducesTheSpecsValues : Prop :=
  [0x00, 0x01, 0x02, 0x0F, 0x7D, 0x7E, 0x80, 0xFF].map crcTable =
    [0x0000, 0x1021, 0x2042, 0xF1EF, 0xAF3A, 0x9F59, 0x9188, 0x1EF0] ∧
  crcOf [0x31, 0x32, 0x33, 0x34, 0x35, 0x36, 0x37, 0x38, 0x39] = 0xBEEF ∧
  crcOf [0x0B, 0xFF, 0xFF, 0xFF, 0xFF] = 0x1201 ∧
  crcOf [0xFF, 0x01, 0x02, 0x03] = 0x11DD ∧
  crcOf [0x0B, 0x00, 0x27, 0x00, 0x0A] = 0xA47E

/-- The algebraic law of R132, an inference the spec marks as its own: the check value, as a polynomial over GF(2), is the remainder
of the message polynomial by x^16 + x^12 + x^5 + 1, with no zero bits appended. -/
def Obligations.CrcIsTheRemainderOfTheMessagePolynomial : Prop :=
  ∀ (poly : List Bool → Polynomial (ZMod 2)),
    (∀ bits, poly bits = bits.foldl (fun p b => p * Polynomial.X + Polynomial.C (if b then 1 else 0)) 0) →
    ∀ s : List Byte, poly (crcBits (crcOf s)) =
      poly (messageBits s) %ₘ (Polynomial.X ^ 16 + Polynomial.X ^ 12 + Polynomial.X ^ 5 + 1)

/-- Single-error detection (R138, an inference the spec marks as its own): take a content of at least two bytes whose check value
matches and change any one byte of it to any other value; a closing flag then reports a MISMATCH and delivers nothing. -/
def Obligations.AnySingleByteChangeIsReportedAsMismatch : Prop :=
  ∀ (s : State) (F : List Byte) (k : Nat) (b : Byte), 5 ≤ s.cntW → 2 ≤ F.length →
    contentCheckValue F = crcOf (F.take (F.length - 2)) →
    k < F.length → F[k]? ≠ some b → HoldsContent s (F.set k b) →
    ∃ rx computed t, rx ≠ computed ∧ exec .frameEnd s = .next t ∧
      t.events = s.events ++ [.error ⟨1, 0, false, 0x00, true, rx, computed⟩]

/-- Small payloads are their own check value (R139, an inference the spec marks as its own). -/
def Obligations.SmallPayloadsAreTheirOwnCheckValue : Prop :=
  crcOf [] = 0x0000 ∧ (∀ a : Byte, crcOf [a] = 0#8 ++ a) ∧ ∀ a b : Byte, crcOf [a, b] = a ++ b

/-! ## Invariants and whole-stream laws -/

/-- The reset state is consistent (spec/10_state.md sections 2 and 4, spec/70_reset_and_hazards.md section 1). -/
def Obligations.ResetStateIsConsistent : Prop := Consistent State.reset

/-- Every step keeps the block consistent: a legal counter width; in FRAMING the registers stand to some frame content as R29 lists
(an inference the spec marks as its own); in IDLE and TERMINATED `esc`, `cnt` and every other per-frame register are clear
(spec/10_state.md sections 2 and 4). The steps are the model's, one past a refused byte and one with nothing presented among them
(log entries 5 and 7). -/
def Obligations.StepKeepsTheBlockConsistent : Prop :=
  ∀ s s' : State, Consistent s → step s = .next s' → Consistent s'

/-- The frame-end processing computes the same events as an unbounded buffer would, for every frame length (R29, an inference the
spec marks as its own): where the registers hold content `F`, the closing flag emits the events read off `F` itself. -/
def Obligations.FrameEndEmitsTheEventsOfTheWholeContent : Prop :=
  ∀ (s : State) (F : List Byte), 5 ≤ s.cntW → HoldsContent s F →
    ∃ t, exec .frameEnd s = .next t ∧ t.events = s.events ++ frameEvents F ∧ Cleared t ∧ t.mode = s.mode

/-- No output depends on `CNT_W` (R24, an inference the spec marks as its own): two blocks that differ in the counter's width only
make the same step, with the same events and answers or the same fault, and differ in the counter's width only. The steps are the
model's, with the host's taking as a bit, past a refused byte and with nothing presented (log entries 4, 5 and 7). -/
def Obligations.CounterWidthIsNotObservable : Prop :=
  ∀ s t : State, SameButWidth s t →
    (∀ s', step s = .next s' → ∃ t', step t = .next t' ∧ SameButWidth s' t') ∧
    (∀ f, step s = .fault f → step t = .fault f)

/-- One flag in IDLE or FRAMING leaves the block in FRAMING with a cleared frame, whatever came before (R112, an inference the spec
marks as its own). -/
def Obligations.OneFlagResynchronises : Prop :=
  ∀ (s : State) (rest : List Offer), s.input = ⟨.byte 0x7E, true⟩ :: rest → s.mode ≠ .terminated →
    ∃ t, step s = .next t ∧ t.mode = .framing ∧ Cleared t ∧ t.responses = s.responses ++ [true]

/-- Fragmentation invariance (R110, an inference the spec marks as its own): feeding two chunks one after the other is feeding their
concatenation. In TERMINATED, where every byte is refused, that a feed completes is the model's reading (log entry 5). -/
def Obligations.FeedingChunksIsFeedingTheirConcatenation : Prop :=
  ∀ (as bs : List Byte) (s : State), ∃ t, feed as s = .next t ∧ feed (as ++ bs) s = feed bs t

/-- Unstuffing inverts stuffing (R111, an inference the spec marks as its own): after a flag and the stuffed bytes of any content, fed
in IDLE or FRAMING, the registers hold exactly that content, with no escape pending. -/
def Obligations.UnstuffingInvertsStuffing : Prop :=
  ∀ (c : List Byte) (s : State), 5 ≤ s.cntW → s.mode ≠ .terminated →
    ∃ t, feed ([0x7E] ++ stuff c) s = .next t ∧ t.mode = .framing ∧ t.esc = false ∧ HoldsContent t c ∧
      t.input = s.input

/-- A frame built by the transmitter's rules from any payload is received as exactly the event of that payload: fed in IDLE, or in
FRAMING with no content pending, it appends one event and leaves a cleared frame (spec/30_encoding.md R82's notation over
spec/45_stream_processor.md section 1). -/
def Obligations.FrameOfAnyPayloadIsReceivedAsItsEvent : Prop :=
  ∀ (p : List Byte) (s : State), 5 ≤ s.cntW → s.mode = .idle ∨ (s.mode = .framing ∧ s.cnt = 0) →
    ∃ t, feed (frameBytes p) s = .next t ∧ t.events = s.events ++ [payloadEvent p] ∧ t.mode = .framing ∧
      Cleared t

/-- A frame fed twice in a row is reported twice alike, the second copy sharing the first's closing flag or bringing its own opening
flag (R248, an inference the spec marks as its own). -/
def Obligations.FrameFedTwiceIsReportedTwiceAlike : Prop :=
  ∀ (p : List Byte) (s : State), 5 ≤ s.cntW → s.mode = .idle ∨ (s.mode = .framing ∧ s.cnt = 0) →
    (∃ t, feed (frameBytes p ++ frameBytes p) s = .next t ∧
      t.events = s.events ++ [payloadEvent p, payloadEvent p]) ∧
    (∃ t, feed (frameBytes p ++ (frameBytes p).drop 1) s = .next t ∧
      t.events = s.events ++ [payloadEvent p, payloadEvent p])

/-- No byte sequence brings the block to TERMINATED or stops it from receiving a later frame (R249, an inference the spec marks as its
own): after any bytes whatever, fed in any mode but TERMINATED, a frame of any payload still ends with that payload's event. -/
def Obligations.NoByteSequenceStopsALaterFrame : Prop :=
  ∀ (bs p : List Byte) (s : State), 5 ≤ s.cntW → s.mode ≠ .terminated →
    ∃ t, feed (bs ++ frameBytes p) s = .next t ∧ t.mode = .framing ∧
      t.events.getLast? = some (payloadEvent p)

/-! ## The message rows in every state -/

/-- On its own, `exec` of a message row completes in every state, also where the row has no operands (fewer than three content bytes,
or another ID in `buf[0]`): with p = `cnt` - 2, 0 for a count below 2, it appends exactly one event and changes nothing else.
That totality is the model's choice (log entry 13); the spec runs a row only inside a closing flag's step. -/
def Obligations.MessageRowsCompleteInEveryState : Prop :=
  (∀ s : State, exec .dispatchTr s = .next { s with
    events := s.events ++
      [if s.cnt - 2 < 28 then .error ⟨3, 0, true, 0x14, false, 0x0000, 0x0000⟩ else .trafficReport (decodeTr s.buf)] }) ∧
  (∀ s : State, exec .dispatchOga s = .next { s with
    events := s.events ++
      [if s.cnt - 2 < 5 then .error ⟨3, 0, true, 0x0B, false, 0x0000, 0x0000⟩
      else .ownshipGeometricAltitude (decodeOga #v[s.buf[0], s.buf[1], s.buf[2], s.buf[3], s.buf[4]])] }) ∧
  (∀ (id : Byte) (s : State), exec (.dispatchUnknown id) s = .next { s with
    events := s.events ++ [.error ⟨2, 0, true, id, false, 0x0000, 0x0000⟩] })
end

