-- ==== Sys2Proof/Laws/Crc.lean ====
section
/-! SUPPORT. The CRC function's own lemmas: the fold, and what a step does to the two bytes of the register. -/

namespace Sys2Proof.Machine

@[simp] theorem crcOf_nil : crcOf [] = 0 := rfl

theorem crcOf_append (s t : List Byte) : crcOf (s ++ t) = t.foldl crcStep (crcOf s) := by
  simp [crcOf]

theorem crcOf_concat (s : List Byte) (b : Byte) : crcOf (s ++ [b]) = crcStep (crcOf s) b := by
  simp [crcOf]

/-- The low byte after a step: the table entry's low byte and the new byte. -/
theorem crcStep_low (c : Crc16) (b : Byte) :
    (crcStep c b).extractLsb' 0 8 = (crcTable (c.extractLsb' 8 8)).extractLsb' 0 8 ^^^ b := by
  ext i hi
  simp [crcStep, hi, BitVec.getLsbD_eq_getElem]
  exact fun _ => by omega

/-- The high byte after a step: the table entry's high byte and the old low byte. -/
theorem crcStep_high (c : Crc16) (b : Byte) :
    (crcStep c b).extractLsb' 8 8 = (crcTable (c.extractLsb' 8 8)).extractLsb' 8 8 ^^^ c.extractLsb' 0 8 := by
  ext i hi
  simp [crcStep]
  omega

/-- Two check values with equal bytes are equal. -/
theorem crc_ext {c d : Crc16} (hhi : c.extractLsb' 8 8 = d.extractLsb' 8 8)
    (hlo : c.extractLsb' 0 8 = d.extractLsb' 0 8) : c = d := by
  apply BitVec.eq_of_getLsbD_eq
  intro i hi
  by_cases h : i < 8
  · have := congrArg (·.getLsbD i) hlo
    simpa [h] using this
  · have := congrArg (·.getLsbD (i - 8)) hhi
    simpa [show i - 8 < 8 by omega, show 8 + (i - 8) = i by omega] using this

/-- The inverse of `TABLE`'s low byte, found by search. -/
def tableIndexOfLow (x : Byte) : Byte :=
  (BitVec.ofNat 8 ((List.range 256).findIdx fun k => (crcTable (BitVec.ofNat 8 k)).extractLsb' 0 8 == x))

theorem tableIndexOfLow_crcTable : ∀ i : Byte, tableIndexOfLow ((crcTable i).extractLsb' 0 8) = i := by
  decide +kernel

/-- Distinct table indices have entries with distinct low bytes. -/
theorem crcTable_low_injective {i j : Byte}
    (h : (crcTable i).extractLsb' 0 8 = (crcTable j).extractLsb' 0 8) : i = j := by
  rw [← tableIndexOfLow_crcTable i, h, tableIndexOfLow_crcTable]

/-- With one byte fed to both, distinct registers stay distinct. -/
theorem crcStep_injective_left {c d : Crc16} {b : Byte} (h : crcStep c b = crcStep d b) : c = d := by
  have hi : c.extractLsb' 8 8 = d.extractLsb' 8 8 := by
    apply crcTable_low_injective
    have := congrArg (BitVec.extractLsb' 0 8) h
    rw [crcStep_low, crcStep_low] at this
    exact (BitVec.xor_left_inj b).mp this
  have lo := congrArg (BitVec.extractLsb' 8 8) h
  rw [crcStep_high, crcStep_high, hi] at lo
  exact crc_ext hi ((BitVec.xor_right_inj _).mp lo)

/-- From one register, distinct bytes give distinct registers. -/
theorem crcStep_injective_right {c : Crc16} {a b : Byte} (h : crcStep c a = crcStep c b) : a = b := by
  have := congrArg (BitVec.extractLsb' 0 8) h
  rw [crcStep_low, crcStep_low] at this
  exact (BitVec.xor_right_inj _).mp this

end Sys2Proof.Machine
end

