-- ==== Sys2Proof/Laws/State.lean ====
section
/-! SUPPORT. One lemma per field per state update, each true by rfl, so that no proof unfolds a record update. -/

namespace Sys2Proof.Machine

/-! ### `setMode` -/

@[simp] theorem State.setMode_mode (m : Mode) (s : State) : (s.setMode m).mode = m := rfl
@[simp] theorem State.setMode_esc (m : Mode) (s : State) : (s.setMode m).esc = s.esc := rfl
@[simp] theorem State.setMode_cnt (m : Mode) (s : State) : (s.setMode m).cnt = s.cnt := rfl
@[simp] theorem State.setMode_buf (m : Mode) (s : State) : (s.setMode m).buf = s.buf := rfl
@[simp] theorem State.setMode_crc (m : Mode) (s : State) : (s.setMode m).crc = s.crc := rfl
@[simp] theorem State.setMode_tOld (m : Mode) (s : State) : (s.setMode m).tOld = s.tOld := rfl
@[simp] theorem State.setMode_tNew (m : Mode) (s : State) : (s.setMode m).tNew = s.tNew := rfl
@[simp] theorem State.setMode_cntW (m : Mode) (s : State) : (s.setMode m).cntW = s.cntW := rfl
@[simp] theorem State.setMode_input (m : Mode) (s : State) : (s.setMode m).input = s.input := rfl
@[simp] theorem State.setMode_events (m : Mode) (s : State) : (s.setMode m).events = s.events := rfl
@[simp] theorem State.setMode_responses (m : Mode) (s : State) : (s.setMode m).responses = s.responses := rfl
@[simp] theorem State.setMode_cntMax (m : Mode) (s : State) : (s.setMode m).cntMax = s.cntMax := rfl

/-! ### `setEsc` -/

@[simp] theorem State.setEsc_mode (e : Bool) (s : State) : (s.setEsc e).mode = s.mode := rfl
@[simp] theorem State.setEsc_esc (e : Bool) (s : State) : (s.setEsc e).esc = e := rfl
@[simp] theorem State.setEsc_cnt (e : Bool) (s : State) : (s.setEsc e).cnt = s.cnt := rfl
@[simp] theorem State.setEsc_buf (e : Bool) (s : State) : (s.setEsc e).buf = s.buf := rfl
@[simp] theorem State.setEsc_crc (e : Bool) (s : State) : (s.setEsc e).crc = s.crc := rfl
@[simp] theorem State.setEsc_tOld (e : Bool) (s : State) : (s.setEsc e).tOld = s.tOld := rfl
@[simp] theorem State.setEsc_tNew (e : Bool) (s : State) : (s.setEsc e).tNew = s.tNew := rfl
@[simp] theorem State.setEsc_cntW (e : Bool) (s : State) : (s.setEsc e).cntW = s.cntW := rfl
@[simp] theorem State.setEsc_input (e : Bool) (s : State) : (s.setEsc e).input = s.input := rfl
@[simp] theorem State.setEsc_events (e : Bool) (s : State) : (s.setEsc e).events = s.events := rfl
@[simp] theorem State.setEsc_responses (e : Bool) (s : State) : (s.setEsc e).responses = s.responses := rfl
@[simp] theorem State.setEsc_cntMax (e : Bool) (s : State) : (s.setEsc e).cntMax = s.cntMax := rfl

/-! ### `startFrame` -/

@[simp] theorem State.startFrame_mode (s : State) : (s.startFrame).mode = s.mode := rfl
@[simp] theorem State.startFrame_esc (s : State) : (s.startFrame).esc = false := rfl
@[simp] theorem State.startFrame_cnt (s : State) : (s.startFrame).cnt = 0 := rfl
@[simp] theorem State.startFrame_buf (s : State) : (s.startFrame).buf = Vector.replicate 28 0x00 := rfl
@[simp] theorem State.startFrame_crc (s : State) : (s.startFrame).crc = Config.crcSeed := rfl
@[simp] theorem State.startFrame_tOld (s : State) : (s.startFrame).tOld = 0x00 := rfl
@[simp] theorem State.startFrame_tNew (s : State) : (s.startFrame).tNew = 0x00 := rfl
@[simp] theorem State.startFrame_cntW (s : State) : (s.startFrame).cntW = s.cntW := rfl
@[simp] theorem State.startFrame_input (s : State) : (s.startFrame).input = s.input := rfl
@[simp] theorem State.startFrame_events (s : State) : (s.startFrame).events = s.events := rfl
@[simp] theorem State.startFrame_responses (s : State) : (s.startFrame).responses = s.responses := rfl
@[simp] theorem State.startFrame_cntMax (s : State) : (s.startFrame).cntMax = s.cntMax := rfl

/-! ### `pushByte` -/

@[simp] theorem State.pushByte_mode (x : Byte) (s : State) : (s.pushByte x).mode = s.mode := rfl
@[simp] theorem State.pushByte_esc (x : Byte) (s : State) : (s.pushByte x).esc = s.esc := rfl
@[simp] theorem State.pushByte_cnt (x : Byte) (s : State) : (s.pushByte x).cnt = s.cntAfterPush := rfl
@[simp] theorem State.pushByte_buf (x : Byte) (s : State) : (s.pushByte x).buf = s.bufAfterPush x := rfl
@[simp] theorem State.pushByte_crc (x : Byte) (s : State) : (s.pushByte x).crc = s.crcAfterPush := rfl
@[simp] theorem State.pushByte_tOld (x : Byte) (s : State) : (s.pushByte x).tOld = s.tNew := rfl
@[simp] theorem State.pushByte_tNew (x : Byte) (s : State) : (s.pushByte x).tNew = x := rfl
@[simp] theorem State.pushByte_cntW (x : Byte) (s : State) : (s.pushByte x).cntW = s.cntW := rfl
@[simp] theorem State.pushByte_input (x : Byte) (s : State) : (s.pushByte x).input = s.input := rfl
@[simp] theorem State.pushByte_events (x : Byte) (s : State) : (s.pushByte x).events = s.events := rfl
@[simp] theorem State.pushByte_responses (x : Byte) (s : State) : (s.pushByte x).responses = s.responses := rfl
@[simp] theorem State.pushByte_cntMax (x : Byte) (s : State) : (s.pushByte x).cntMax = s.cntMax := rfl

/-! ### `emit` -/

@[simp] theorem State.emit_mode (ev : Event) (s : State) : (s.emit ev).mode = s.mode := rfl
@[simp] theorem State.emit_esc (ev : Event) (s : State) : (s.emit ev).esc = s.esc := rfl
@[simp] theorem State.emit_cnt (ev : Event) (s : State) : (s.emit ev).cnt = s.cnt := rfl
@[simp] theorem State.emit_buf (ev : Event) (s : State) : (s.emit ev).buf = s.buf := rfl
@[simp] theorem State.emit_crc (ev : Event) (s : State) : (s.emit ev).crc = s.crc := rfl
@[simp] theorem State.emit_tOld (ev : Event) (s : State) : (s.emit ev).tOld = s.tOld := rfl
@[simp] theorem State.emit_tNew (ev : Event) (s : State) : (s.emit ev).tNew = s.tNew := rfl
@[simp] theorem State.emit_cntW (ev : Event) (s : State) : (s.emit ev).cntW = s.cntW := rfl
@[simp] theorem State.emit_input (ev : Event) (s : State) : (s.emit ev).input = s.input := rfl
@[simp] theorem State.emit_events (ev : Event) (s : State) : (s.emit ev).events = s.events ++ [ev] := rfl
@[simp] theorem State.emit_responses (ev : Event) (s : State) : (s.emit ev).responses = s.responses := rfl
@[simp] theorem State.emit_cntMax (ev : Event) (s : State) : (s.emit ev).cntMax = s.cntMax := rfl

/-! ### `raise` -/

@[simp] theorem State.raise_mode (d : ErrorDescriptor) (s : State) : (s.raise d).mode = s.mode := rfl
@[simp] theorem State.raise_esc (d : ErrorDescriptor) (s : State) : (s.raise d).esc = s.esc := rfl
@[simp] theorem State.raise_cnt (d : ErrorDescriptor) (s : State) : (s.raise d).cnt = s.cnt := rfl
@[simp] theorem State.raise_buf (d : ErrorDescriptor) (s : State) : (s.raise d).buf = s.buf := rfl
@[simp] theorem State.raise_crc (d : ErrorDescriptor) (s : State) : (s.raise d).crc = s.crc := rfl
@[simp] theorem State.raise_tOld (d : ErrorDescriptor) (s : State) : (s.raise d).tOld = s.tOld := rfl
@[simp] theorem State.raise_tNew (d : ErrorDescriptor) (s : State) : (s.raise d).tNew = s.tNew := rfl
@[simp] theorem State.raise_cntW (d : ErrorDescriptor) (s : State) : (s.raise d).cntW = s.cntW := rfl
@[simp] theorem State.raise_input (d : ErrorDescriptor) (s : State) : (s.raise d).input = s.input := rfl
@[simp] theorem State.raise_events (d : ErrorDescriptor) (s : State) : (s.raise d).events = s.events ++ [.error d] := rfl
@[simp] theorem State.raise_responses (d : ErrorDescriptor) (s : State) : (s.raise d).responses = s.responses := rfl
@[simp] theorem State.raise_cntMax (d : ErrorDescriptor) (s : State) : (s.raise d).cntMax = s.cntMax := rfl

/-! ### `consume` -/

@[simp] theorem State.consume_mode (rest : List Offer) (s : State) : (s.consume rest).mode = s.mode := rfl
@[simp] theorem State.consume_esc (rest : List Offer) (s : State) : (s.consume rest).esc = s.esc := rfl
@[simp] theorem State.consume_cnt (rest : List Offer) (s : State) : (s.consume rest).cnt = s.cnt := rfl
@[simp] theorem State.consume_buf (rest : List Offer) (s : State) : (s.consume rest).buf = s.buf := rfl
@[simp] theorem State.consume_crc (rest : List Offer) (s : State) : (s.consume rest).crc = s.crc := rfl
@[simp] theorem State.consume_tOld (rest : List Offer) (s : State) : (s.consume rest).tOld = s.tOld := rfl
@[simp] theorem State.consume_tNew (rest : List Offer) (s : State) : (s.consume rest).tNew = s.tNew := rfl
@[simp] theorem State.consume_cntW (rest : List Offer) (s : State) : (s.consume rest).cntW = s.cntW := rfl
@[simp] theorem State.consume_input (rest : List Offer) (s : State) : (s.consume rest).input = rest := rfl
@[simp] theorem State.consume_events (rest : List Offer) (s : State) : (s.consume rest).events = s.events := rfl
@[simp] theorem State.consume_responses (rest : List Offer) (s : State) : (s.consume rest).responses = s.responses := rfl
@[simp] theorem State.consume_cntMax (rest : List Offer) (s : State) : (s.consume rest).cntMax = s.cntMax := rfl

/-! ### `respond` -/

@[simp] theorem State.respond_mode (a : Bool) (s : State) : (s.respond a).mode = s.mode := rfl
@[simp] theorem State.respond_esc (a : Bool) (s : State) : (s.respond a).esc = s.esc := rfl
@[simp] theorem State.respond_cnt (a : Bool) (s : State) : (s.respond a).cnt = s.cnt := rfl
@[simp] theorem State.respond_buf (a : Bool) (s : State) : (s.respond a).buf = s.buf := rfl
@[simp] theorem State.respond_crc (a : Bool) (s : State) : (s.respond a).crc = s.crc := rfl
@[simp] theorem State.respond_tOld (a : Bool) (s : State) : (s.respond a).tOld = s.tOld := rfl
@[simp] theorem State.respond_tNew (a : Bool) (s : State) : (s.respond a).tNew = s.tNew := rfl
@[simp] theorem State.respond_cntW (a : Bool) (s : State) : (s.respond a).cntW = s.cntW := rfl
@[simp] theorem State.respond_input (a : Bool) (s : State) : (s.respond a).input = s.input := rfl
@[simp] theorem State.respond_events (a : Bool) (s : State) : (s.respond a).events = s.events := rfl
@[simp] theorem State.respond_responses (a : Bool) (s : State) : (s.respond a).responses = s.responses ++ [a] := rfl
@[simp] theorem State.respond_cntMax (a : Bool) (s : State) : (s.respond a).cntMax = s.cntMax := rfl

/-! ### `present` -/

@[simp] theorem State.present_mode (tx : Transaction) (s : State) : (s.present tx).mode = s.mode := rfl
@[simp] theorem State.present_esc (tx : Transaction) (s : State) : (s.present tx).esc = s.esc := rfl
@[simp] theorem State.present_cnt (tx : Transaction) (s : State) : (s.present tx).cnt = s.cnt := rfl
@[simp] theorem State.present_buf (tx : Transaction) (s : State) : (s.present tx).buf = s.buf := rfl
@[simp] theorem State.present_crc (tx : Transaction) (s : State) : (s.present tx).crc = s.crc := rfl
@[simp] theorem State.present_tOld (tx : Transaction) (s : State) : (s.present tx).tOld = s.tOld := rfl
@[simp] theorem State.present_tNew (tx : Transaction) (s : State) : (s.present tx).tNew = s.tNew := rfl
@[simp] theorem State.present_cntW (tx : Transaction) (s : State) : (s.present tx).cntW = s.cntW := rfl
@[simp] theorem State.present_input (tx : Transaction) (s : State) : (s.present tx).input = ⟨tx, true⟩ :: s.input := rfl
@[simp] theorem State.present_events (tx : Transaction) (s : State) : (s.present tx).events = s.events := rfl
@[simp] theorem State.present_responses (tx : Transaction) (s : State) : (s.present tx).responses = s.responses := rfl
@[simp] theorem State.present_cntMax (tx : Transaction) (s : State) : (s.present tx).cntMax = s.cntMax := rfl

end Sys2Proof.Machine
end

