-- ==== Sys2Proof/Laws/Ops.lean ====
section
/-! SUPPORT. One lemma per shared operation that says everything it can do. -/

namespace Sys2Proof.Machine

/-! ### `DISPATCH` and its rows -/

/-- `DISPATCH_TR` emits one event and changes nothing else. -/
theorem dispatchTr_eq (s : State) : dispatchTr s = s.emit
    (if s.payloadLength < 28 then .error (truncatedError 0x14) else .trafficReport (decodeTr s.buf)) := by
  unfold dispatchTr State.raise State.trSlice
  split <;> rfl

/-- `DISPATCH_OGA` emits one event and changes nothing else. -/
theorem dispatchOga_eq (s : State) : dispatchOga s = s.emit
    (if s.payloadLength < 5 then .error (truncatedError 0x0B)
      else .ownshipGeometricAltitude (decodeOga s.ogaSlice)) := by
  unfold dispatchOga State.raise
  split <;> rfl

/-- `DISPATCH` emits one event, chosen by the payload's length and ID, and changes nothing else. -/
theorem dispatch_eq (s : State) : dispatch s = s.emit
    (if s.payloadLength = 0 then .error emptyPayloadError
      else if s.buf[0] = 0x14 then
        (if s.payloadLength < 28 then .error (truncatedError 0x14) else .trafficReport (decodeTr s.buf))
      else if s.buf[0] = 0x0B then
        (if s.payloadLength < 5 then .error (truncatedError 0x0B)
          else .ownshipGeometricAltitude (decodeOga s.ogaSlice))
      else .error (unknownMessageError s.buf[0])) := by
  simp only [dispatch, dispatchTr_eq, dispatchOga_eq, dispatchUnknown, State.raise, State.messageId]
  split_ifs <;> rfl

/-! ### `FrameEnd` -/

/-- `VALIDATE`'s three answers. -/
theorem validate_cases (s : State) :
    (s.cnt = 1 ∧ validate s = some shortFrameError) ∨
    (s.cnt ≠ 1 ∧ s.rxCrc ≠ s.crc ∧ validate s = some (mismatchError s.rxCrc s.crc)) ∨
    (s.cnt ≠ 1 ∧ s.rxCrc = s.crc ∧ validate s = none) := by
  unfold validate
  split_ifs with h1 h2
  · exact .inl ⟨h1, rfl⟩
  · exact .inr (.inl ⟨h1, h2, rfl⟩)
  · exact .inr (.inr ⟨h1, not_not.mp h2, rfl⟩)

/-- `FrameEnd` emits nothing exactly for an empty frame, and else one event; it changes nothing else. -/
theorem frameEnd_cases (s : State) :
    (s.cnt = 0 ∧ frameEnd s = s) ∨ (s.cnt ≠ 0 ∧ ∃ ev, frameEnd s = s.emit ev) := by
  unfold frameEnd
  split_ifs with h
  · exact .inl ⟨h, rfl⟩
  · refine .inr ⟨h, ?_⟩
    cases validate s with
    | some d => exact ⟨_, rfl⟩
    | none => exact ⟨_, dispatch_eq s⟩

@[simp] theorem frameEnd_mode (s : State) : (frameEnd s).mode = s.mode := by
  rcases frameEnd_cases s with ⟨-, h⟩ | ⟨-, ev, h⟩ <;> simp [h]

@[simp] theorem frameEnd_cntW (s : State) : (frameEnd s).cntW = s.cntW := by
  rcases frameEnd_cases s with ⟨-, h⟩ | ⟨-, ev, h⟩ <;> simp [h]

@[simp] theorem frameEnd_input (s : State) : (frameEnd s).input = s.input := by
  rcases frameEnd_cases s with ⟨-, h⟩ | ⟨-, ev, h⟩ <;> simp [h]

@[simp] theorem frameEnd_responses (s : State) : (frameEnd s).responses = s.responses := by
  rcases frameEnd_cases s with ⟨-, h⟩ | ⟨-, ev, h⟩ <;> simp [h]

/-! ### `PushByte` -/

/-- The frame store after a push: byte `cnt` is the new one while it fits, and every other byte is kept (R102). -/
theorem bufAfterPush_getElem (s : State) (x : Byte) (i : Nat) (h : i < 28) :
    (s.bufAfterPush x)[i] = if i = s.cnt then x else s.buf[i] := by
  unfold State.bufAfterPush
  by_cases h1 : s.cnt < 28
  · simp [h1, Vector.getElem_set, eq_comm]
  · have h2 : i ≠ s.cnt := by omega
    simp [h1, h2]

/-- The counter after a push never passes `CNT_MAX` if it had not. -/
theorem cntAfterPush_eq_min (s : State) (h : s.cnt ≤ s.cntMax) :
    s.cntAfterPush = min (s.cnt + 1) s.cntMax := by
  unfold State.cntAfterPush
  split_ifs with h1
  · omega
  · omega

/-! ### The received check value -/

/-- The received check value is the last byte over the one before it (R135). -/
theorem rxCrc_eq_append (s : State) : s.rxCrc = s.tNew ++ s.tOld := by
  unfold State.rxCrc
  apply BitVec.eq_of_getLsbD_eq
  intro i hi
  rw [BitVec.getLsbD_append]
  by_cases h : i < 8
  · simp [h]
    intro
    omega
  · have := s.tOld.getLsbD_of_ge i (by omega)
    simp [h, this, hi]

end Sys2Proof.Machine
end

