-- ==== Sys2Proof/Laws/Content.lean ====
section
/-! SUPPORT. What the framer's primitives do to the frame content: `StartFrame` leaves the empty content, `PushByte` appends one byte,
and nothing else touches it (spec/10_state.md R29). -/

namespace Sys2Proof

open Machine

/-- A legal counter counts past every length the block compares with (R24). -/
theorem cntMax_ge (s : State) (h : 5 ≤ s.cntW) : 31 ≤ s.cntMax := by
  have : 2 ^ 5 ≤ 2 ^ s.cntW := Nat.pow_le_pow_right (by omega) h
  unfold State.cntMax
  omega

theorem cleared_startFrame (s : State) : Cleared s.startFrame :=
  ⟨rfl, rfl, rfl, rfl, rfl, rfl⟩

/-- Whether a state is cleared depends on the per-frame registers only. -/
theorem Cleared.transfer {s t : State} (h : Cleared s) (esc : t.esc = s.esc) (cnt : t.cnt = s.cnt)
    (crc : t.crc = s.crc) (tOld : t.tOld = s.tOld) (tNew : t.tNew = s.tNew) (buf : t.buf = s.buf) : Cleared t :=
  ⟨esc.trans h.esc, cnt.trans h.cnt, crc.trans h.crc, tOld.trans h.tOld, tNew.trans h.tNew, buf.trans h.buf⟩

/-- Whether a state holds a content depends on five registers and the counter's width only. -/
theorem HoldsContent.transfer {s t : State} {F : List Byte} (h : HoldsContent s F) (cnt : t.cnt = s.cnt)
    (crc : t.crc = s.crc) (tOld : t.tOld = s.tOld) (tNew : t.tNew = s.tNew) (buf : t.buf = s.buf)
    (cntW : t.cntW = s.cntW) : HoldsContent t F where
  cnt := by simp only [State.cntMax, cntW, cnt]; exact h.cnt
  buf := by rw [buf]; exact h.buf
  crc := crc.trans h.crc
  tNew := by rw [tNew]; exact h.tNew
  tOld := by rw [tOld]; exact h.tOld

/-- Consistency does not depend on the host's side of the state. -/
theorem Consistent.transfer {s t : State} (h : Consistent s) (mode : t.mode = s.mode) (esc : t.esc = s.esc)
    (cnt : t.cnt = s.cnt) (crc : t.crc = s.crc) (tOld : t.tOld = s.tOld) (tNew : t.tNew = s.tNew)
    (buf : t.buf = s.buf) (cntW : t.cntW = s.cntW) : Consistent t where
  width := by rw [cntW]; exact h.width
  framing hm := by
    obtain ⟨F, hF⟩ := h.framing (mode ▸ hm)
    exact ⟨F, hF.transfer cnt crc tOld tNew buf cntW⟩
  resting hm := (h.resting (mode ▸ hm)).transfer esc cnt crc tOld tNew buf

/-- A cleared state holds the empty content. -/
theorem Cleared.holdsContent_nil {s : State} (h : Cleared s) : HoldsContent s [] where
  cnt := by simp [h.cnt]
  buf := by simp
  crc := by simp [h.crc]
  tNew := by simp
  tOld := by simp

/-- `PushByte` appends one byte to the content (R102, R29). -/
theorem HoldsContent.pushByte {s : State} {F : List Byte} (hw : 5 ≤ s.cntW) (h : HoldsContent s F) (x : Byte) :
    HoldsContent (s.pushByte x) (F ++ [x]) := by
  have hmax := cntMax_ge s hw
  have hcnt := h.cnt
  constructor
  · rw [State.pushByte_cnt, cntAfterPush_eq_min s (by omega), State.pushByte_cntMax, List.length_append]
    simp only [List.length_singleton]
    omega
  · intro i hi hF
    simp only [State.pushByte_buf]
    rw [bufAfterPush_getElem s x i hi]
    rw [List.length_append, List.length_singleton] at hF
    by_cases hlt : i < F.length
    · rw [List.getElem_append_left hlt, if_neg (by omega)]
      exact h.buf i hi hlt
    · obtain rfl : i = F.length := by omega
      rw [if_pos (by omega)]
      simp
  · have hlen : (F ++ [x]).length - 2 = F.length - 1 := by simp
    rw [hlen, State.pushByte_crc, State.crcAfterPush, h.crc, List.take_append_of_le_length (by omega)]
    by_cases h2 : 2 ≤ F.length
    · rw [if_pos (by omega), ← crcOf_concat]
      have hk : F.length - 1 = F.length - 2 + 1 := by omega
      rw [hk, List.take_add_one, h.tOld h2, Option.toList_some]
    · rw [if_neg (by omega)]
      have h0 : F.length - 2 = 0 := by omega
      have h1 : F.length - 1 = 0 := by omega
      rw [h0, h1]
  · intro _
    simp
  · intro h2
    have h1 : 1 ≤ F.length := by simp at h2; omega
    have hk : (F ++ [x]).length - 2 = F.length - 1 := by simp
    rw [hk, State.pushByte_tOld, List.getElem?_append_left (by omega)]
    exact h.tNew h1

/-! ### The check value of a content -/

/-- Where the registers hold `F`, the received check value is `F`'s own. -/
theorem HoldsContent.rxCrc {s : State} {F : List Byte} (h : HoldsContent s F) (h2 : 2 ≤ F.length) :
    s.rxCrc = contentCheckValue F := by
  have a := h.tNew (by omega)
  have b := h.tOld h2
  rw [rxCrc_eq_append, contentCheckValue]
  simp [a, b]

theorem foldl_crcStep_injective (l : List Byte) {c d : Crc16} (h : l.foldl crcStep c = l.foldl crcStep d) : c = d := by
  induction l generalizing c d with
  | nil => exact h
  | cons a l ih => exact crcStep_injective_left (ih h)

/-- Changing one byte changes the check value computed. -/
theorem crcOf_set_ne (p : List Byte) (k : Nat) (b : Byte) (hk : k < p.length) (hne : p[k]? ≠ some b) :
    crcOf (p.set k b) ≠ crcOf p := by
  intro h
  rw [List.set_eq_take_append_cons_drop, if_pos hk] at h
  conv at h => rhs; rw [← List.take_append_drop k p, List.drop_eq_getElem_cons hk]
  rw [crcOf_append, crcOf_append] at h
  simp only [List.foldl_cons] at h
  have := crcStep_injective_right (foldl_crcStep_injective _ h)
  rw [List.getElem?_eq_getElem hk] at hne
  exact hne (by rw [this])

/-- The two bytes of a check value put together again. -/
theorem crc_bytes_append (c : Crc16) : c.extractLsb' 8 8 ++ c.extractLsb' 0 8 = c := by
  apply BitVec.eq_of_getLsbD_eq
  intro i hi
  rw [BitVec.getLsbD_append]
  by_cases h : i < 8
  · simp [h]
  · simp [h, show i - 8 < 8 by omega, show 8 + (i - 8) = i by omega]

/-- A payload with its own check bytes is a content whose one event is the payload's. -/
theorem frameEvents_payload (p : List Byte) : frameEvents (p ++ crcBytes p) = [payloadEvent p] := by
  have hl : (p ++ crcBytes p).length = p.length + 2 := by simp [crcBytes]
  have ht : (p ++ crcBytes p).take ((p ++ crcBytes p).length - 2) = p := by
    rw [hl]
    simp
  have hi : (p ++ crcBytes p).getD (p.length + 2 - 1) 0 = (crcOf p).extractLsb' 8 8 := by
    rw [List.getD_append_right _ _ _ _ (by omega), show p.length + 2 - 1 - p.length = 1 by omega]
    rfl
  have lo : (p ++ crcBytes p).getD (p.length + 2 - 2) 0 = (crcOf p).extractLsb' 0 8 := by
    rw [List.getD_append_right _ _ _ _ (by omega), show p.length + 2 - 2 - p.length = 0 by omega]
    rfl
  unfold frameEvents
  rw [if_neg (by omega), if_neg (by omega), ht, if_pos]
  unfold contentCheckValue
  rw [hl, hi, lo]
  exact crc_bytes_append _

end Sys2Proof
end

