-- ==== Sys2Proof/Laws/CrcPolynomial.lean ====
section
/-! SUPPORT. A byte and a check value as polynomials over GF(2), most significant bit first, and what one CRC step does to them:
it shifts by eight and adds the byte, up to a multiple of the generator (spec/41_crc_validator.md R130, R132). -/

namespace Sys2Proof.Laws

open Machine Polynomial

/-! ### Bits as coefficients -/

/-- A bit as a coefficient. -/
noncomputable def bitPoly (b : Bool) : Polynomial (ZMod 2) := C (if b then 1 else 0)

theorem bitPoly_false : bitPoly false = 0 := by simp [bitPoly]

theorem bitPoly_true : bitPoly true = 1 := by simp [bitPoly]

theorem bitPoly_xor (a b : Bool) : bitPoly (a ^^ b) = bitPoly a + bitPoly b := by
  have h : (if (a ^^ b) then (1 : ZMod 2) else 0) = (if a then 1 else 0) + (if b then 1 else 0) := by
    revert a b
    decide
  unfold bitPoly
  rw [h, map_add]

/-- A list of bits as a polynomial, the first bit the highest coefficient. -/
noncomputable def bitsPoly (bits : List Bool) : Polynomial (ZMod 2) :=
  bits.foldl (fun p b => p * X + bitPoly b) 0

/-- The generator polynomial (R130). -/
noncomputable def generator : Polynomial (ZMod 2) := X ^ 16 + X ^ 12 + X ^ 5 + 1

theorem bitsPoly_from (bits : List Bool) (q : Polynomial (ZMod 2)) :
    bits.foldl (fun p b => p * X + bitPoly b) q = q * X ^ bits.length + bitsPoly bits := by
  induction bits generalizing q with
  | nil => simp [bitsPoly]
  | cons b l ih =>
    have e : bitsPoly (b :: l) = (0 * X + bitPoly b) * X ^ l.length + bitsPoly l := by
      conv_lhs => rw [bitsPoly, List.foldl_cons, ih]
    rw [List.foldl_cons, ih, e]
    simp only [List.length_cons, pow_succ]
    ring

theorem bitsPoly_append (a b : List Bool) : bitsPoly (a ++ b) = bitsPoly a * X ^ b.length + bitsPoly b := by
  conv_lhs => rw [bitsPoly, List.foldl_append, bitsPoly_from]
  rfl

theorem generator_monic : generator.Monic := by
  unfold generator
  monicity!

theorem generator_degree : generator.degree = 16 := by
  unfold generator
  compute_degree!

theorem bitsPoly_degree_lt (bits : List Bool) : (bitsPoly bits).degree < bits.length := by
  induction bits with
  | nil => simp [bitsPoly]
  | cons b l ih =>
    have e : bitsPoly (b :: l) = bitPoly b * X ^ l.length + bitsPoly l := by
      rw [show b :: l = [b] ++ l from rfl, bitsPoly_append]
      simp [bitsPoly]
    rw [e]
    refine lt_of_le_of_lt (degree_add_le _ _) (max_lt_iff.mpr ⟨?_, ?_⟩)
    · unfold bitPoly
      refine lt_of_le_of_lt (degree_C_mul_X_pow_le _ _) ?_
      rw [List.length_cons]
      exact_mod_cast Nat.lt_succ_self _
    · refine lt_trans ih ?_
      rw [List.length_cons]
      exact_mod_cast Nat.lt_succ_self _

/-! ### Bytes and check values -/

/-- A byte as a polynomial. -/
noncomputable def bytePoly (b : Byte) : Polynomial (ZMod 2) := bitsPoly (byteBits b)

/-- A check value as a polynomial. -/
noncomputable def crcPoly (c : Crc16) : Polynomial (ZMod 2) := bitsPoly (crcBits c)

theorem bytePoly_eq_sum (b : Byte) : bytePoly b = ∑ i ∈ Finset.range 8, bitPoly (b.getLsbD i) * X ^ i := by
  simp only [bytePoly, bitsPoly, byteBits, List.foldl_cons, List.foldl_nil, Finset.sum_range_succ,
    Finset.sum_range_zero]
  ring

theorem bytePoly_zero : bytePoly 0#8 = 0 := by simp [bytePoly_eq_sum, bitPoly_false]

theorem bytePoly_xor (a b : Byte) : bytePoly (a ^^^ b) = bytePoly a + bytePoly b := by
  simp only [bytePoly_eq_sum, BitVec.getLsbD_xor, bitPoly_xor, add_mul, Finset.sum_add_distrib]

theorem crcPoly_eq_bytes (c : Crc16) :
    crcPoly c = bytePoly (c.extractLsb' 8 8) * X ^ 8 + bytePoly (c.extractLsb' 0 8) := by
  unfold crcPoly crcBits
  rw [bitsPoly_append]
  rfl

theorem crcPoly_xor (a b : Crc16) : crcPoly (a ^^^ b) = crcPoly a + crcPoly b := by
  have h : ∀ k, (a ^^^ b).extractLsb' k 8 = a.extractLsb' k 8 ^^^ b.extractLsb' k 8 := by
    intro k
    ext i
    simp
  simp only [crcPoly_eq_bytes, h, bytePoly_xor]
  ring

theorem crcPoly_eq_sum (c : Crc16) : crcPoly c = ∑ i ∈ Finset.range 16, bitPoly (c.getLsbD i) * X ^ i := by
  rw [crcPoly_eq_bytes, bytePoly_eq_sum, bytePoly_eq_sum]
  simp only [Finset.sum_range_succ, Finset.sum_range_zero, BitVec.getLsbD_extractLsb']
  simp only [Nat.reduceAdd, Nat.reduceLT, decide_true, Bool.true_and, Nat.zero_add, Nat.add_zero]
  ring

theorem crcPoly_poly : crcPoly Config.poly = X ^ 12 + X ^ 5 + 1 := by
  rw [crcPoly_eq_sum]
  simp only [Finset.sum_range_succ, Finset.sum_range_zero]
  simp [Config.poly, bitPoly_true, bitPoly_false]
  ring

/-! ### The CRC's operations, up to a multiple of the generator -/

theorem crcPoly_crcShift (c : Crc16) :
    ∃ k, crcPoly (crcShift c) = crcPoly c * X + k * generator := by
  have two : (2 : Polynomial (ZMod 2)) = 0 := CharTwo.two_eq_zero
  have hs : crcPoly (c <<< 1) = crcPoly c * X + bitPoly (c.getLsbD 15) * X ^ 16 := by
    rw [crcPoly_eq_sum, crcPoly_eq_sum]
    simp only [Finset.sum_range_succ, Finset.sum_range_zero, BitVec.getLsbD_shiftLeft]
    simp [bitPoly_false]
    have e15 : bitPoly (getElem c 15 (by omega)) = bitPoly (c.getLsbD 15) := rfl
    rw [e15]
    linear_combination (-(bitPoly (c.getLsbD 15)) * X ^ 16) * two
  unfold crcShift
  rw [crcPoly_xor, hs]
  by_cases h : c.getLsbD 15 = true
  · refine ⟨1, ?_⟩
    rw [if_pos h, h, crcPoly_poly, bitPoly_true]
    unfold generator
    ring
  · refine ⟨0, ?_⟩
    rw [if_neg h, Bool.not_eq_true _ |>.mp h, bitPoly_false]
    simp [crcPoly_eq_sum, bitPoly_false]

theorem crcPoly_crcShifts (n : Nat) (c : Crc16) :
    ∃ k, crcPoly (crcShifts n c) = crcPoly c * X ^ n + k * generator := by
  induction n generalizing c with
  | zero => exact ⟨0, by simp [crcShifts]⟩
  | succ n ih =>
    obtain ⟨k, hk⟩ := ih (crcShift c)
    obtain ⟨j, hj⟩ := crcPoly_crcShift c
    exact ⟨j * X ^ n + k, by rw [crcShifts, hk, hj]; ring⟩

/-- `CrcStep(c, b)` is `c * x^8 + b`, up to a multiple of the generator. -/
theorem crcPoly_crcStep (c : Crc16) (b : Byte) :
    ∃ k, crcPoly (crcStep c b) = crcPoly c * X ^ 8 + bytePoly b + k * generator := by
  obtain ⟨k, hk⟩ := crcPoly_crcShifts 8 (c.extractLsb' 8 8 ++ 0#8)
  refine ⟨k, ?_⟩
  have hhi : crcPoly (c.extractLsb' 8 8 ++ 0#8) = bytePoly (c.extractLsb' 8 8) * X ^ 8 := by
    have h1 : (c.extractLsb' 8 8 ++ 0#8).extractLsb' 8 8 = c.extractLsb' 8 8 := by
      apply BitVec.eq_of_getLsbD_eq
      intro i hi
      rw [BitVec.getLsbD_extractLsb', BitVec.getLsbD_append]
      simp [hi]
    have h0 : (c.extractLsb' 8 8 ++ 0#8).extractLsb' 0 8 = 0#8 := by
      apply BitVec.eq_of_getLsbD_eq
      intro i hi
      rw [BitVec.getLsbD_extractLsb', BitVec.getLsbD_append]
      simp [hi]
    rw [crcPoly_eq_bytes, h1, h0, bytePoly_zero]
    ring
  have hlo : crcPoly (c <<< 8) = bytePoly (c.extractLsb' 0 8) * X ^ 8 := by
    have h1 : (c <<< 8).extractLsb' 8 8 = c.extractLsb' 0 8 := by
      apply BitVec.eq_of_getLsbD_eq
      intro i hi
      simp [hi]
      omega
    have h0 : (c <<< 8).extractLsb' 0 8 = 0#8 := by
      apply BitVec.eq_of_getLsbD_eq
      intro i hi
      simp [hi]
    rw [crcPoly_eq_bytes, h1, h0, bytePoly_zero]
    ring
  have hb : crcPoly (b.setWidth 16) = bytePoly b := by
    have h1 : (b.setWidth 16).extractLsb' 8 8 = 0#8 := by
      apply BitVec.eq_of_getLsbD_eq
      intro i hi
      simp
    have h0 : (b.setWidth 16).extractLsb' 0 8 = b := by
      apply BitVec.eq_of_getLsbD_eq
      intro i hi
      simp [hi]
      omega
    rw [crcPoly_eq_bytes, h1, h0, bytePoly_zero]
    ring
  unfold crcStep crcTable
  rw [crcPoly_xor, crcPoly_xor, hk, hhi, hlo, hb, crcPoly_eq_bytes]
  ring

end Sys2Proof.Laws
end

