-- ==== Sys2Proof/Laws/PerInstr.lean ====
section
/-! SUPPORT. Statements made of every instruction as syntax, with one lemma per constructor. The byte operands are checked at all 256
values. -/

namespace Sys2Proof.Laws

/-! ### `RoundTrip`: decoding an encoded well-formed instruction gives it back -/

/-- What the family says of one instruction. -/
def RoundTrip.Statement (i : Instr) : Prop :=
  i.wellFormed = true → decode (encode i) = .ok i

/-- The decoder's answer on a list of bytes, as an option. -/
def decoded? (bs : List Byte) : Option Instr :=
  match decode bs with
  | .ok i => some i
  | .error _ => none

theorem decode_of_decoded? {bs : List Byte} {i : Instr} (h : decoded? bs = some i) : decode bs = .ok i := by
  unfold decoded? at h
  split at h
  · next j hj => rw [hj]; simpa using h
  · simp at h

theorem huntDiscard_decoded : ∀ b : Byte, (Instr.huntDiscard b).wellFormed = true →
    decoded? (encode (.huntDiscard b)) = some (.huntDiscard b) := by decide +kernel

theorem data_decoded : ∀ b : Byte, (Instr.data b).wellFormed = true →
    decoded? (encode (.data b)) = some (.data b) := by decide +kernel

theorem escapedData_decoded : ∀ b : Byte, (Instr.escapedData b).wellFormed = true →
    decoded? (encode (.escapedData b)) = some (.escapedData b) := by decide +kernel

theorem terminatedByte_decoded : ∀ b : Byte,
    decoded? (encode (.terminatedByte b)) = some (.terminatedByte b) := by decide +kernel

theorem dispatchUnknown_decoded : ∀ b : Byte, (Instr.dispatchUnknown b).wellFormed = true →
    decoded? (encode (.dispatchUnknown b)) = some (.dispatchUnknown b) := by decide +kernel

theorem RoundTrip.huntFlag : RoundTrip.Statement .huntFlag :=
  fun _ => decode_of_decoded? (by decide)

theorem RoundTrip.huntDiscard (b : Byte) : RoundTrip.Statement (.huntDiscard b) :=
  fun h => decode_of_decoded? (huntDiscard_decoded b h)

theorem RoundTrip.frameEnd : RoundTrip.Statement .frameEnd :=
  fun _ => decode_of_decoded? (by decide)

theorem RoundTrip.escape : RoundTrip.Statement .escape :=
  fun _ => decode_of_decoded? (by decide)

theorem RoundTrip.data (b : Byte) : RoundTrip.Statement (.data b) :=
  fun h => decode_of_decoded? (data_decoded b h)

theorem RoundTrip.escapedData (b : Byte) : RoundTrip.Statement (.escapedData b) :=
  fun h => decode_of_decoded? (escapedData_decoded b h)

theorem RoundTrip.terminatedByte (b : Byte) : RoundTrip.Statement (.terminatedByte b) :=
  fun _ => decode_of_decoded? (terminatedByte_decoded b)

theorem RoundTrip.shutdown : RoundTrip.Statement .shutdown :=
  fun _ => decode_of_decoded? (by decide)

theorem RoundTrip.reset : RoundTrip.Statement .reset :=
  fun _ => decode_of_decoded? (by decide)

theorem RoundTrip.dispatchTr : RoundTrip.Statement .dispatchTr :=
  fun _ => decode_of_decoded? (by decide)

theorem RoundTrip.dispatchOga : RoundTrip.Statement .dispatchOga :=
  fun _ => decode_of_decoded? (by decide)

theorem RoundTrip.dispatchUnknown (id : Byte) : RoundTrip.Statement (.dispatchUnknown id) :=
  fun h => decode_of_decoded? (dispatchUnknown_decoded id h)

end Sys2Proof.Laws
end

