-- ==== Sys2Proof/Laws/Step.lean ====
section
/-! SUPPORT. What a step can do, said once: the instruction a presented transaction decodes to, the answers of `exec`, and the inversion
of `step`. -/

namespace Sys2Proof.Machine

open Sys2Proof.Laws

/-! ### Decoding a presented transaction -/

theorem decodeWord_byteWord_idle : ∀ (e : Bool) (b : Byte),
    decoded? (wordBytes (byteWord 0b00 e b)) = some (if b = 0x7E then .huntFlag else .huntDiscard b) := by
  decide +kernel

theorem decodeWord_byteWord_framing : ∀ (e : Bool) (b : Byte),
    decoded? (wordBytes (byteWord 0b01 e b)) =
      some (if b = 0x7E then .frameEnd else if e then .escapedData b else if b = 0x7D then .escape else .data b) := by
  decide +kernel

theorem decodeWord_byteWord_terminated : ∀ (e : Bool) (b : Byte),
    decoded? (wordBytes (byteWord 0b10 e b)) = some (.terminatedByte b) := by
  decide +kernel

/-- The class of a byte transaction, by the mode and escape bits of the state (R73). -/
def byteInstr (s : State) (b : Byte) : Instr :=
  match s.mode with
  | .idle => if b = 0x7E then .huntFlag else .huntDiscard b
  | .framing =>
    if b = 0x7E then .frameEnd else if s.esc then .escapedData b else if b = 0x7D then .escape else .data b
  | .terminated => .terminatedByte b

/-- The instruction of a presented transaction. -/
def transactionInstr (s : State) : Transaction → Instr
  | .byte b => byteInstr s b
  | .shutdown => .shutdown
  | .reset => .reset

/-- Every presented transaction decodes. -/
theorem decode_transactionBytes (s : State) (tx : Transaction) :
    decode (transactionBytes s tx) = .ok (transactionInstr s tx) := by
  apply decode_of_decoded?
  cases tx with
  | byte b =>
    simp only [transactionBytes, transactionWord, transactionInstr, byteInstr]
    cases hm : s.mode with
    | idle => exact decodeWord_byteWord_idle s.esc b
    | framing => exact decodeWord_byteWord_framing s.esc b
    | terminated => exact decodeWord_byteWord_terminated s.esc b
  | shutdown => exact (by decide : decoded? (wordBytes shutdownWord) = some .shutdown)
  | reset => exact (by decide : decoded? (wordBytes resetWord) = some .reset)

/-! ### The answers of `exec` -/

/-- `exec` refuses a byte after shutdown and answers a next state for every other instruction. -/
theorem exec_cases (i : Instr) (s : State) :
    (∃ b, i = .terminatedByte b ∧ exec i s = .refused .byteAfterShutdown) ∨ ∃ t, exec i s = .next t := by
  cases i with
  | terminatedByte b => exact .inl ⟨b, rfl, rfl⟩
  | huntFlag | huntDiscard | frameEnd | escape | data | escapedData | shutdown | reset | dispatchTr | dispatchOga
  | dispatchUnknown => exact .inr ⟨_, rfl⟩

/-! ### Inversion of `step` -/

theorem step_nil (s : State) (h : s.input = []) : step s = .next s := by
  unfold step
  rw [h]
  rfl

theorem step_cons (s : State) (o : Offer) (rest : List Offer) (h : s.input = o :: rest) :
    step s = settle o.hostTakes (s.consume rest) (exec (transactionInstr s o.tx) (s.consume rest)) := by
  unfold step
  rw [h]
  simp only [decode_transactionBytes]

/-- Everything a step that answers a next state can have done. -/
theorem step_next_cases {s s' : State} (h : step s = .next s') :
    (s.input = [] ∧ s' = s) ∨
    (∃ o rest, s.input = o :: rest ∧
      ((∃ t, exec (transactionInstr s o.tx) (s.consume rest) = .next t ∧ s' = t.respond true) ∨
       (∃ b, transactionInstr s o.tx = .terminatedByte b ∧ s' = (s.consume rest).respond false))) := by
  cases hin : s.input with
  | nil =>
    rw [step_nil s hin] at h
    exact .inl ⟨rfl, by simpa using h.symm⟩
  | cons o rest =>
    rw [step_cons s o rest hin] at h
    refine .inr ⟨o, rest, rfl, ?_⟩
    rcases exec_cases (transactionInstr s o.tx) (s.consume rest) with ⟨b, hi, he⟩ | ⟨t, he⟩
    · rw [he] at h
      exact .inr ⟨b, hi, by simpa [settle] using h.symm⟩
    · rw [he] at h
      refine .inl ⟨t, he, ?_⟩
      simp only [settle] at h
      split at h
      · cases h
      · simpa using h.symm

/-! ### What an instruction does to the host's side -/

/-- Everything an instruction can do to the host's side: it emits at most one event, and only the closing flag of a non-empty
frame and the message rows emit. -/
theorem exec_hostSide {i : Instr} {s t : State} (h : exec i s = .next t) :
    t.input = s.input ∧ t.responses = s.responses ∧ t.cntW = s.cntW ∧
    ∃ evs, evs.length ≤ 1 ∧ t.events = s.events ++ evs ∧
      (evs ≠ [] → (i = .frameEnd ∧ s.cnt ≠ 0) ∨ i = .dispatchTr ∨ i = .dispatchOga ∨ ∃ id, i = .dispatchUnknown id) := by
  cases i with
  | frameEnd =>
    cases h
    rcases frameEnd_cases s with ⟨h0, h⟩ | ⟨h0, ev, h⟩
    · exact ⟨by simp [h], by simp [h], by simp [h], [], by simp, by simp [h], by simp⟩
    · exact ⟨by simp [h], by simp [h], by simp [h], [ev], by simp, by simp [h], by simp [h0]⟩
  | dispatchTr => cases h; rw [dispatchTr_eq]; exact ⟨rfl, rfl, rfl, [_], by simp, rfl, by simp⟩
  | dispatchOga => cases h; rw [dispatchOga_eq]; exact ⟨rfl, rfl, rfl, [_], by simp, rfl, by simp⟩
  | dispatchUnknown id => cases h; exact ⟨rfl, rfl, rfl, [_], by simp, rfl, by simp⟩
  | terminatedByte b => cases h
  | huntFlag | huntDiscard | escape | data | escapedData | shutdown | reset =>
    cases h
    exact ⟨rfl, rfl, rfl, [], by simp, by simp, by simp⟩

/-! ### Which transaction a row comes from -/

/-- Only a flag in FRAMING is a closing flag. -/
theorem transactionInstr_eq_frameEnd {s : State} {tx : Transaction} (h : transactionInstr s tx = .frameEnd) :
    s.mode = .framing ∧ tx = .byte 0x7E := by
  cases tx <;> simp [transactionInstr, byteInstr] at h
  revert h
  cases s.mode <;> simp
  · split <;> simp
  · split_ifs <;> simp_all

/-- No transaction is a message row. -/
theorem transactionInstr_ne_messageRow (s : State) (tx : Transaction) :
    transactionInstr s tx ≠ .dispatchTr ∧ transactionInstr s tx ≠ .dispatchOga ∧
    ∀ id, transactionInstr s tx ≠ .dispatchUnknown id := by
  cases tx <;> simp [transactionInstr, byteInstr]
  cases s.mode <;> simp <;> (try split_ifs) <;> simp

/-- Every way a step can change `mode`. -/
theorem step_mode_cases {s s' : State} (h : step s = .next s') :
    s'.mode = s.mode ∨ ∃ o rest, s.input = o :: rest ∧
      ((o.tx = .reset ∧ s'.mode = .idle) ∨ (o.tx = .shutdown ∧ s'.mode = .terminated) ∨
       (o.tx = .byte 0x7E ∧ s.mode = .idle ∧ s'.mode = .framing)) := by
  rcases step_next_cases h with ⟨h0, rfl⟩ | ⟨o, rest, hin, ⟨t, he, rfl⟩ | ⟨b, hb, rfl⟩⟩
  · exact .inl rfl
  · obtain ⟨tx, takes⟩ := o
    cases tx with
    | reset => cases he; exact .inr ⟨_, _, hin, .inl ⟨rfl, rfl⟩⟩
    | shutdown => cases he; exact .inr ⟨_, _, hin, .inr (.inl ⟨rfl, rfl⟩)⟩
    | byte b =>
      simp only [transactionInstr, byteInstr] at he
      cases hm : s.mode <;> simp only [hm] at he
      · split at he
        · subst b
          cases he
          exact .inr ⟨_, _, hin, .inr (.inr ⟨rfl, rfl, rfl⟩)⟩
        · cases he
          exact .inl hm
      · split_ifs at he <;> cases he <;> exact .inl (by simp [hm])
      · cases he
  · exact .inl rfl

end Sys2Proof.Machine
end

