-- ==== Sys2Proof/Laws/Feed.lean ====
section
/-! SUPPORT. Feeding bytes, one at a time: what one fed byte does, and `feed` as a fold of it. -/

namespace Sys2Proof

open Machine

/-! ### No instruction reads or writes the host's input -/

theorem frameEnd_consume (s : State) (r : List Offer) : frameEnd (s.consume r) = (frameEnd s).consume r := by
  have hp : (s.consume r).payloadLength = s.payloadLength := rfl
  have hg : (s.consume r).ogaSlice = s.ogaSlice := rfl
  have hv : validate (s.consume r) = validate s := rfl
  unfold frameEnd
  simp only [hv, State.consume_cnt]
  split
  · rfl
  · split
    · rfl
    · simp only [dispatch_eq, hp, hg, State.consume_buf]
      rfl

/-- Replacing the host's input commutes with every instruction. -/
theorem exec_consume (i : Instr) (s : State) (r : List Offer) :
    (∀ t, exec i s = .next t → exec i (s.consume r) = .next (t.consume r)) ∧
    (exec i s = .refused .byteAfterShutdown → exec i (s.consume r) = .refused .byteAfterShutdown) := by
  refine ⟨fun t h => ?_, fun h => ?_⟩
  · cases i with
    | frameEnd =>
      cases h
      show Host.Outcome.next (frameEnd (s.consume r)).startFrame = _
      rw [frameEnd_consume]
      rfl
    | dispatchTr =>
      cases h
      show Host.Outcome.next (dispatchTr (s.consume r)) = _
      simp only [dispatchTr_eq]
      rfl
    | dispatchOga =>
      cases h
      show Host.Outcome.next (dispatchOga (s.consume r)) = _
      simp only [dispatchOga_eq]
      rfl
    | terminatedByte b => cases h
    | huntFlag | huntDiscard | escape | data | escapedData | shutdown | reset | dispatchUnknown => cases h; rfl
  · cases i <;> first | rfl | cases h

/-! ### One fed byte -/

/-- The state after one byte has been presented to `s` and answered. -/
def byteStep (s : State) (b : Byte) : State :=
  match exec (byteInstr s b) s with
  | .next t => t.respond true
  | .fault _ => s.respond false
  | .refused _ => s.respond false

theorem step_offerBytes_cons (b : Byte) (bs : List Byte) (s : State) :
    step (offerBytes (b :: bs) s) = .next (offerBytes bs (byteStep s b)) := by
  have hin : (offerBytes (b :: bs) s).input = ⟨.byte b, true⟩ :: (offersOf bs ++ s.input) := rfl
  rw [step_cons _ _ _ hin]
  have hc : (offerBytes (b :: bs) s).consume (offersOf bs ++ s.input) = s.consume (offersOf bs ++ s.input) := rfl
  have hi : transactionInstr (offerBytes (b :: bs) s) (.byte b) = byteInstr s b := rfl
  rw [hc, hi]
  have hx := exec_consume (byteInstr s b) s (offersOf bs ++ s.input)
  rcases exec_cases (byteInstr s b) s with ⟨b', -, he⟩ | ⟨t, he⟩
  · rw [hx.2 he]
    simp only [byteStep, he]
    rfl
  · rw [hx.1 t he]
    have hti : t.input = s.input := by
      have h := hx.1 t he
      have h' := (exec_consume (byteInstr s b) (s.consume (offersOf bs ++ s.input)) s.input).1 _ h
      have hs : (s.consume (offersOf bs ++ s.input)).consume s.input = s := rfl
      rw [hs, he] at h'
      have := congrArg State.input (Host.Outcome.next.inj h')
      simpa using this
    simp only [byteStep, he, settle]
    rw [if_neg (by simp)]
    congr 1
    simp [offerBytes, State.respond, State.consume, hti]

/-- One step of a run. -/
theorem run_succ (k : Nat) {s t : State} (h : step s = .next t) :
    Host.Core.run Sys2Proof.core (k + 1) s = Host.Core.run Sys2Proof.core k t := by
  have h' : Sys2Proof.core.step s = .next t := h
  simp only [Host.Core.run, h']

@[simp] theorem feed_nil (s : State) : feed [] s = .next s := rfl

@[simp] theorem feed_cons (b : Byte) (bs : List Byte) (s : State) : feed (b :: bs) s = feed bs (byteStep s b) := by
  exact run_succ _ (step_offerBytes_cons b bs s)

/-- Feeding bytes is a fold of one-byte feeds, and always completes. -/
theorem feed_eq_foldl (bs : List Byte) (s : State) : feed bs s = .next (bs.foldl byteStep s) := by
  induction bs generalizing s with
  | nil => rfl
  | cons b bs ih => rw [feed_cons, ih]; rfl

/-! ### A fed flag -/

/-- One fed flag in IDLE or FRAMING clears the frame, and emits nothing where no content was pending. -/
theorem byteStep_flag (s : State) (h : s.mode ≠ .terminated) :
    (byteStep s 0x7E).mode = .framing ∧ Cleared (byteStep s 0x7E) ∧ (byteStep s 0x7E).input = s.input ∧
    (byteStep s 0x7E).cntW = s.cntW ∧ (byteStep s 0x7E).responses = s.responses ++ [true] ∧
    (s.mode = .idle ∨ s.cnt = 0 → (byteStep s 0x7E).events = s.events) := by
  unfold byteStep byteInstr
  cases hm : s.mode with
  | idle => exact ⟨rfl, (cleared_startFrame s).transfer rfl rfl rfl rfl rfl rfl, rfl, rfl, rfl, fun _ => rfl⟩
  | framing =>
    have he : exec .frameEnd s = .next (frameEnd s).startFrame := rfl
    simp only [if_true, he]
    refine ⟨by simp [hm], (cleared_startFrame (frameEnd s)).transfer rfl rfl rfl rfl rfl rfl, by simp, by simp, by simp, ?_⟩
    rintro (h | h)
    · cases h
    · rcases frameEnd_cases s with ⟨-, h'⟩ | ⟨h', -⟩
      · simp [h']
      · exact absurd h h'
  | terminated => exact absurd hm h

/-! ### Fed stuffed bytes -/

/-- The stuffed form of one byte, fed in FRAMING with no escape pending, appends that byte. -/
theorem foldl_stuffByte (s : State) (F : List Byte) (x : Byte) (hw : 5 ≤ s.cntW) (hm : s.mode = .framing)
    (he : s.esc = false) (hF : HoldsContent s F) :
    let t := (stuffByte x).foldl byteStep s
    t.mode = .framing ∧ t.esc = false ∧ HoldsContent t (F ++ [x]) ∧ t.cntW = s.cntW ∧ t.input = s.input ∧
    t.events = s.events := by
  intro t
  by_cases hx : x = 0x7E ∨ x = 0x7D
  · have e1 : byteStep s 0x7D = (s.setEsc true).respond true := by
      unfold byteStep byteInstr
      rw [hm]
      simp [he]
      rfl
    have e2 : byteStep ((s.setEsc true).respond true) (x ^^^ 0x20) =
        ((((s.setEsc true).respond true).setEsc false).pushByte x).respond true := by
      unfold byteStep byteInstr
      have : ((s.setEsc true).respond true).mode = .framing := hm
      rw [this]
      rcases hx with rfl | rfl <;> rfl
    have ht : t = ((((s.setEsc true).respond true).setEsc false).pushByte x).respond true := by
      show (stuffByte x).foldl byteStep s = _
      rw [stuffByte, if_pos hx]
      simp only [List.foldl_cons, List.foldl_nil]
      rw [e1, e2]
    rw [ht]
    have hp := HoldsContent.pushByte (s := ((s.setEsc true).respond true).setEsc false) hw
      (hF.transfer rfl rfl rfl rfl rfl rfl) x
    exact ⟨hm, rfl, hp.transfer rfl rfl rfl rfl rfl rfl, rfl, rfl, rfl⟩
  · have ht : t = (s.pushByte x).respond true := by
      show (stuffByte x).foldl byteStep s = _
      rw [stuffByte, if_neg hx]
      simp only [List.foldl_cons, List.foldl_nil]
      rw [not_or] at hx
      unfold byteStep byteInstr
      rw [hm, he]
      simp only
      rw [if_neg hx.1, if_neg (by simp), if_neg hx.2]
      rfl
    rw [ht]
    exact ⟨hm, he, (HoldsContent.pushByte hw hF x).transfer rfl rfl rfl rfl rfl rfl, rfl, rfl, rfl⟩

/-- The stuffed form of a content, fed in FRAMING with no escape pending, appends that content. -/
theorem foldl_stuff (c : List Byte) (s : State) (F : List Byte) (hw : 5 ≤ s.cntW) (hm : s.mode = .framing)
    (he : s.esc = false) (hF : HoldsContent s F) :
    let t := (stuff c).foldl byteStep s
    t.mode = .framing ∧ t.esc = false ∧ HoldsContent t (F ++ c) ∧ t.cntW = s.cntW ∧ t.input = s.input ∧
    t.events = s.events := by
  induction c generalizing s F with
  | nil => exact ⟨hm, he, by rw [List.append_nil]; exact hF, rfl, rfl, rfl⟩
  | cons x c ih =>
    have h1 := foldl_stuffByte s F x hw hm he hF
    have h2 := ih _ (F ++ [x]) (by rw [h1.2.2.2.1]; exact hw) h1.1 h1.2.1 h1.2.2.1
    simp only [stuff, List.flatMap_cons, List.foldl_append] at h2 ⊢
    obtain ⟨hm', he', hF', hw', hi', hv'⟩ := h2
    exact ⟨hm', he', by simpa using hF', hw'.trans h1.2.2.2.1, hi'.trans h1.2.2.2.2.1, hv'.trans h1.2.2.2.2.2⟩

/-- A byte fed in IDLE or FRAMING does not end in TERMINATED. -/
theorem byteStep_mode (s : State) (b : Byte) (hm : s.mode ≠ .terminated) :
    (byteStep s b).mode ≠ .terminated ∧ (byteStep s b).cntW = s.cntW := by
  unfold byteStep byteInstr
  cases h : s.mode with
  | idle => simp only; split_ifs <;> simp [exec, execHuntFlag, execHuntDiscard, h]
  | framing =>
    simp only
    split_ifs <;> simp [exec, execFrameEnd, execEscapedData, execEscape, execData, h]
  | terminated => exact absurd h hm

end Sys2Proof
end

