-- ==== Sys2Proof/Laws/Operands.lean ====
section
/-! SUPPORT. What the operand operations of Machine/Operands.lean compute, as plain arithmetic on the payload's bytes. -/

namespace Sys2Proof.Machine

/-! ### Digits and big-endian concatenation -/

theorem hiNibble_toNat (b : Byte) : (hiNibble b).toNat = b.toNat / 16 := by
  have := b.isLt
  simp [hiNibble, BitVec.extractLsb'_toNat, Nat.shiftRight_eq_div_pow]
  omega

theorem loNibble_toNat (b : Byte) : (loNibble b).toNat = b.toNat % 16 := by
  simp [loNibble, BitVec.extractLsb'_toNat]

theorem be16_toNat (a b : Byte) : (be16 a b).toNat = a.toNat * 256 + b.toNat := by
  have := b.isLt
  simp only [be16, BitVec.toNat_append, Nat.shiftLeft_eq]
  rw [Nat.mul_comm, ← Nat.two_pow_add_eq_or_of_lt (by omega)]

theorem be24_toNat (a b c : Byte) : (be24 a b c).toNat = a.toNat * 65536 + b.toNat * 256 + c.toNat := by
  have := b.isLt
  have := c.isLt
  simp only [be24, BitVec.toNat_append, Nat.shiftLeft_eq]
  rw [Nat.mul_comm, ← Nat.two_pow_add_eq_or_of_lt (by omega), Nat.mul_comm a.toNat,
    ← Nat.two_pow_add_eq_or_of_lt (by omega)]
  omega

/-- Bits 15:4 of two bytes. -/
theorem be16_high12_toNat (a b : Byte) : ((be16 a b).extractLsb' 4 12).toNat = a.toNat * 16 + b.toNat / 16 := by
  have := be16_toNat a b
  have := a.isLt
  have := b.isLt
  rw [BitVec.extractLsb'_toNat, Nat.shiftRight_eq_div_pow]
  omega

/-- Bits 11:0 of two bytes. -/
theorem be16_low12_toNat (a b : Byte) : ((be16 a b).extractLsb' 0 12).toNat = a.toNat % 16 * 256 + b.toNat := by
  have := be16_toNat a b
  have := a.isLt
  have := b.isLt
  rw [BitVec.extractLsb'_toNat, Nat.shiftRight_eq_div_pow]
  omega

/-- Bits 14:0 of two bytes. -/
theorem be16_low15_toNat (a b : Byte) : ((be16 a b).extractLsb' 0 15).toNat = a.toNat % 128 * 256 + b.toNat := by
  have := be16_toNat a b
  have := a.isLt
  have := b.isLt
  rw [BitVec.extractLsb'_toNat, Nat.shiftRight_eq_div_pow]
  omega

/-! ### The sentinel of a 12-bit field -/

theorem ne_sentinel12_iff (raw : BitVec 12) : ((raw != 0xFFF) = true) ↔ raw.toNat ≠ 0xFFF := by
  simp [bne_iff_ne, ← BitVec.toNat_inj]

theorem ne_sentinel15_iff (raw : BitVec 15) : ((raw != 0x7FFF) = true) ↔ raw.toNat ≠ 0x7FFF := by
  simp [bne_iff_ne, ← BitVec.toNat_inj]

/-! ### The callsign loop -/

/-- The loop of R188 from position `n` stops at `k`: every byte from `k` to `n` is padding, and the one before `k` is not. -/
theorem trimLength_spec (raw : Vector Byte 8) (n k : Nat) (hn : n ≤ 8) (hk : trimLength raw n = k) :
    k ≤ n ∧ (∀ i (_ : i < 8), k ≤ i → i < n → raw[i] = 0x00 ∨ raw[i] = 0x20) ∧
    (∀ (_ : k - 1 < 8), 0 < k → raw[k - 1] ≠ 0x00 ∧ raw[k - 1] ≠ 0x20) := by
  induction n generalizing k with
  | zero => subst hk; simp [trimLength]
  | succ n ih =>
    have hget : raw.toList.getD n 0 = raw[n] := by
      rw [List.getD_eq_getElem?_getD, List.getElem?_eq_getElem (by simpa using hn)]
      simp
    unfold trimLength at hk
    rw [hget] at hk
    by_cases hp : isPadding raw[n] = true
    · rw [if_pos hp] at hk
      have ih := ih k (by omega) hk
      refine ⟨by omega, fun i hi h1 h2 => ?_, ih.2.2⟩
      by_cases hin : i = n
      · subst hin
        simpa [isPadding] using hp
      · exact ih.2.1 i hi h1 (by omega)
    · rw [if_neg hp] at hk
      subst hk
      exact ⟨le_refl _, fun i hi h1 h2 => by omega, fun _ _ => by simpa [isPadding] using hp⟩

/-- Byte `i` of the callsign field is payload byte 19 + `i`. -/
theorem trCallsignRaw_getElem (m : Vector Byte 28) (i : Nat) (h : i < 8) : (trCallsignRaw m)[i] = m[19 + i] := by
  unfold trCallsignRaw
  match i, h with
  | 0, _ | 1, _ | 2, _ | 3, _ | 4, _ | 5, _ | 6, _ | 7, _ => rfl

end Sys2Proof.Machine
end

