-- ==== Sys2Proof/Tests/Slice0.lean ====
section
/-! SUPPORT. The model's own tests: the well-formedness smoke, decoding of words written out from spec/opcode_table.json, steps whose
expected results stand in spec/95_test_vectors.md or in a rule's own example, and for each statement with hypotheses the
states and operands that meet them. No expected value is the model's own answer. -/

namespace Sys2Proof.Tests

open Machine

/-! ## Helpers -/

/-- The block in FRAMING with the bytes `F` of content pushed since its opening flag. -/
def framingWith (F : List Byte) : State :=
  F.foldl (fun s x => s.pushByte x) { State.reset with mode := .framing }

/-- The block after shutdown. -/
def terminated : State :=
  { State.reset with mode := .terminated }

/-- The payload of Scenario A (spec/95 section 1.1). -/
def scenarioA : Vector Byte 28 :=
  #v[0x14, 0x00, 0xAB, 0x45, 0x49, 0x1F, 0xEF, 0x15, 0xA8, 0x89, 0x78, 0x0F, 0x09, 0xA9,
     0x07, 0xB0, 0x01, 0x20, 0x01, 0x4E, 0x38, 0x32, 0x35, 0x56, 0x20, 0x20, 0x20, 0x00]

/-- The registers before Scenario A's closing flag, as spec/95 section 1.1 gives them. -/
def beforeFlagA : State :=
  { State.reset with mode := .framing, cnt := 30, crc := 0xD657, tOld := 0x57, tNew := 0xD6, buf := scenarioA }

/-- The content of `FRAME(0B 00 C8 00 0A)` (spec/95 section 2.6). -/
def contentOga : List Byte := [0x0B, 0x00, 0xC8, 0x00, 0x0A, 0xBF, 0xA8]

/-- The events of the next state of an outcome. -/
def eventsOf (o : Host.Outcome State Fault Refusal) : Option (List Event) :=
  (nextState? o).map (·.events)

/-- The next state of an outcome, as the spec's short form: mode, esc, cnt, crc, t_old, t_new (spec/95, Notation). -/
def shortOf (o : Host.Outcome State Fault Refusal) : Option (Mode × Bool × Nat × Crc16 × Byte × Byte) :=
  (nextState? o).map fun s => (s.mode, s.esc, s.cnt, s.crc, s.tOld, s.tNew)

theorem next_of_eventsOf {o : Host.Outcome State Fault Refusal} {evs : List Event} (h : eventsOf o = some evs) :
    ∃ s', o = .next s' ∧ s'.events = evs := by
  cases o with
  | next s' => exact ⟨s', rfl, by simpa [eventsOf, nextState?] using h⟩
  | fault f => cases h
  | refused r => cases h

theorem framingWith_frame (F : List Byte) :
    (framingWith F).mode = .framing ∧ (framingWith F).esc = false ∧ (framingWith F).cntW = 16 := by
  have key : ∀ (l : List Byte) (s : State), (l.foldl (fun s x => s.pushByte x) s).mode = s.mode ∧
      (l.foldl (fun s x => s.pushByte x) s).esc = s.esc ∧ (l.foldl (fun s x => s.pushByte x) s).cntW = s.cntW := by
    intro l
    induction l with
    | nil => exact fun s => ⟨rfl, rfl, rfl⟩
    | cons x l ih => exact fun s => ih (s.pushByte x)
  exact key F _

/-- The helper's state holds the content it was given (R29). -/
theorem framingWith_holds (F : List Byte) : HoldsContent (framingWith F) F := by
  have key : ∀ (l G : List Byte) (s : State), 5 ≤ s.cntW → HoldsContent s G →
      HoldsContent (l.foldl (fun s x => s.pushByte x) s) (G ++ l) := by
    intro l
    induction l with
    | nil => exact fun G s _ h => by simpa using h
    | cons x l ih => exact fun G s hw h => by simpa using ih (G ++ [x]) (s.pushByte x) hw (h.pushByte hw x)
  have h0 : Cleared { State.reset with mode := Mode.framing } := ⟨rfl, rfl, rfl, rfl, rfl, rfl⟩
  exact key F [] _ (by decide) h0.holdsContent_nil

theorem framingWith_consistent (F : List Byte) : Consistent (framingWith F) :=
  ⟨by rw [(framingWith_frame F).2.2]; decide, fun _ => ⟨F, framingWith_holds F⟩,
    fun h => absurd (framingWith_frame F).1 h⟩

theorem terminated_consistent : Consistent terminated :=
  ⟨by decide, fun h => (by cases h), fun _ => ⟨rfl, rfl, rfl, rfl, rfl, rfl⟩⟩

/-! ## WellFormed smoke: each check refuses a term that breaks it (R73, R78) -/

theorem test_wf_huntDiscard_not_flag : (Instr.huntDiscard 0x7E).wellFormed = false := by decide
theorem test_wf_data_not_flag : (Instr.data 0x7E).wellFormed = false := by decide
theorem test_wf_data_not_escape : (Instr.data 0x7D).wellFormed = false := by decide
theorem test_wf_escapedData_not_flag : (Instr.escapedData 0x7E).wellFormed = false := by decide
theorem test_wf_dispatchUnknown_not_tr : (Instr.dispatchUnknown 0x14).wellFormed = false := by decide
theorem test_wf_dispatchUnknown_not_oga : (Instr.dispatchUnknown 0x0B).wellFormed = false := by decide
theorem test_wf_accepts_neighbours :
    (Instr.huntDiscard 0x7D).wellFormed = true ∧ (Instr.data 0x7C).wellFormed = true ∧
    (Instr.data 0x7F).wellFormed = true ∧ (Instr.escapedData 0x7D).wellFormed = true ∧
    (Instr.dispatchUnknown 0x0A).wellFormed = true ∧ (Instr.dispatchUnknown 0x15).wellFormed = true := by decide

/-! ## Decoding: words written out from the encoding column of spec/opcode_table.json, bit 10 first -/

theorem test_decode_huntFlag : decodeTableWord 11 0b00_0_01111110 = some .huntFlag := by decide
theorem test_decode_huntDiscard : decodeTableWord 11 0b00_0_01111101 = some (.huntDiscard 0x7D) := by decide
theorem test_decode_frameEnd : decodeTableWord 11 0b01_0_01111110 = some .frameEnd := by decide
theorem test_decode_frameEnd_escaped : decodeTableWord 11 0b01_1_01111110 = some .frameEnd := by decide
theorem test_decode_escape : decodeTableWord 11 0b01_0_01111101 = some .escape := by decide
theorem test_decode_data : decodeTableWord 11 0b01_0_01000001 = some (.data 0x41) := by decide
theorem test_decode_escapedData : decodeTableWord 11 0b01_1_01011110 = some (.escapedData 0x5E) := by decide
theorem test_decode_terminatedByte : decodeTableWord 11 0b10_0_01111110 = some (.terminatedByte 0x7E) := by decide
theorem test_decode_dispatchTr : decodeTableWord 8 0b00010100 = some .dispatchTr := by decide
theorem test_decode_dispatchOga : decodeTableWord 8 0b00001011 = some .dispatchOga := by decide
theorem test_decode_dispatchUnknown : decodeTableWord 8 0b11111111 = some (.dispatchUnknown 0xFF) := by decide
/-- The control strobes' words are the model's own (log entry 3). -/
theorem test_decode_control :
    decodeTableWord 16 0b0000100000000000 = some .shutdown ∧ decodeTableWord 16 0b0001000000000000 = some .reset := by
  decide
/-- R74: mode `0b11` matches no row. -/
theorem test_decode_reserved_mode : decodeTableWord 11 0b11_0_01111110 = none := by decide
/-- A strobe's word carries nothing else (log entry 3). -/
theorem test_decode_reserved_bits : decodeTableWord 16 0b0001100000000000 = none := by decide

/-! ## The framer -/

/-- spec/95 section 2.2, stream `7E`. -/
theorem test_huntFlag_opens_frame :
    shortOf (exec .huntFlag State.reset) = some (.framing, false, 0, 0x0000, 0x00, 0x00) := by decide
/-- spec/95 section 2.2, stream `41 7D 42`: 0x7D is not an escape in IDLE. -/
theorem test_huntDiscard_ignores_escape : nextState? (exec (.huntDiscard 0x7D) State.reset) = some State.reset := by
  decide
/-- spec/95 section 2.2, stream `7E 41 7D`. -/
theorem test_escape_is_pending :
    shortOf (exec .escape (framingWith [0x41])) = some (.framing, true, 1, 0x0000, 0x00, 0x41) := by decide +kernel
/-- spec/95 section 2.2, stream `7E 41 42 43`: the CRC starts at the third byte. -/
theorem test_data_folds_held_back_byte :
    shortOf (exec (.data 0x43) (framingWith [0x41, 0x42])) = some (.framing, false, 3, 0x0041, 0x42, 0x43) := by
  decide +kernel
/-- spec/95 section 2.2, `CNT_W` = 5: the count saturates at 31, and byte 28 and beyond are not stored. -/
theorem test_data_saturates :
    (nextState? (exec (.data 0xB5) { beforeFlagA with cntW := 5, cnt := 31 })).map (fun s => (s.cnt, s.buf)) =
      some (31, scenarioA) := by decide +kernel
/-- spec/95 section 2.2, stream `7E 7D 41`: a non-canonical escape. -/
theorem test_escapedData_unmasks :
    shortOf (exec (.escapedData 0x41) { framingWith [] with esc := true }) =
      some (.framing, false, 1, 0x0000, 0x00, 0x61) := by decide +kernel
/-- spec/95 section 2.2, stream `7E 7D 7D 5E`: the first escaped byte is 0x5D. -/
theorem test_escapedData_escape_byte :
    shortOf (exec (.escapedData 0x7D) { framingWith [] with esc := true }) =
      some (.framing, false, 1, 0x0000, 0x00, 0x5D) := by decide +kernel
/-- spec/95 section 2.7, stream `SHUTDOWN; 7E 41`. -/
theorem test_terminatedByte_refused : exec (.terminatedByte 0x7E) terminated = .refused .byteAfterShutdown := rfl

/-! ## The closing flag -/

/-- spec/95 section 1.1: Scenario A's one event and the state after it. -/
theorem test_frameEnd_scenarioA :
    eventsOf (exec .frameEnd beforeFlagA) = some [.trafficReport (decodeTr scenarioA)] ∧
    shortOf (exec .frameEnd beforeFlagA) = some (.framing, false, 0, 0x0000, 0x00, 0x00) := by decide +kernel
/-- spec/95 section 1.2: Scenario B. -/
theorem test_frameEnd_mismatch :
    eventsOf (exec .frameEnd { beforeFlagA with tOld := 0x00, tNew := 0x00 }) =
      some [.error ⟨1, 0, false, 0x00, true, 0x0000, 0xD657⟩] := by decide +kernel

/-! ## The control transactions -/

/-- spec/95 section 2.7, stream `7E 0B 00 C8 SHUTDOWN;`. -/
theorem test_shutdown_discards_partial_frame :
    shortOf (exec .shutdown (framingWith [0x0B, 0x00, 0xC8])) = some (.terminated, false, 0, 0x0000, 0x00, 0x00) ∧
    eventsOf (exec .shutdown (framingWith [0x0B, 0x00, 0xC8])) = some [] := by decide +kernel
/-- spec/95 section 2.9: `RESET;` from any state. -/
theorem test_reset_leaves_terminated : nextState? (exec .reset terminated) = some State.reset := by decide
theorem test_reset_mid_frame : nextState? (exec .reset beforeFlagA) = some State.reset := by decide

/-! ## The message rows -/

/-- spec/95 section 2.4, `7E 14 14 00 7E`. -/
theorem test_dispatchTr_truncated :
    eventsOf (exec .dispatchTr (framingWith [0x14, 0x14, 0x00])) =
      some [.error ⟨3, 0, true, 0x14, false, 0x0000, 0x0000⟩] := by decide +kernel
/-- spec/95 section 2.4, over-length: Scenario A's payload and one more byte. -/
theorem test_dispatchTr_over_length :
    eventsOf (exec .dispatchTr { beforeFlagA with cnt := 31 }) = some [.trafficReport (decodeTr scenarioA)] := by
  decide +kernel
/-- spec/95 section 2.4, `7E 0B 00 C8 00 FA 14 7E`: one byte short. -/
theorem test_dispatchOga_truncated :
    eventsOf (exec .dispatchOga (framingWith [0x0B, 0x00, 0xC8, 0x00, 0xFA, 0x14])) =
      some [.error ⟨3, 0, true, 0x0B, false, 0x0000, 0x0000⟩] := by decide +kernel
/-- spec/95 section 2.6, payload `0B 00 C8 00 0A`. -/
theorem test_dispatchOga_record :
    eventsOf (exec .dispatchOga (framingWith contentOga)) =
      some [.ownshipGeometricAltitude ⟨0x0B, 0x0B, 0x00C8, 1000, false, 0x000A, true, 10⟩] := by decide +kernel
/-- spec/95 section 2.8, the Scenario E instance. -/
theorem test_dispatchUnknown_raw_id :
    eventsOf (exec (.dispatchUnknown 0xFF) (framingWith [0xFF, 0x01, 0x02, 0x03, 0xDD, 0x11])) =
      some [.error ⟨2, 0, true, 0xFF, false, 0x0000, 0x0000⟩] := by decide +kernel

/-! ## The decoders -/

/-- spec/43 R191: Scenario A, decoded in full. -/
theorem test_decodeTr_scenarioA : decodeTr scenarioA =
    { tag := 0x14, id := 0x14, alertStatus := 0, addressType := 0, participantAddress := 0xAB4549
      latitudeRaw := 0x1FEF15, latitudeDeg := mkRat 94176945 2097152
      longitudeRaw := 0xA88978, longitudeDeg := mkRat (-32242365) 262144
      hasValidPosition := true, altitudeRaw := 0x0F0, hasValidAltitude := true, altitudeFt := 5000
      trackHeadingType := 1, reportStatus := 0, airGroundState := 1
      navigationIntegrityCategory := 10, navigationAccuracyCategoryForPosition := 9
      horizontalVelocityRaw := 0x07B, hasValidHorizontalVelocity := true, horizontalVelocityKt := 123
      verticalVelocityRaw := 0x001, hasValidVerticalVelocity := true, verticalVelocityFpm := 64
      trackHeading := 0x20, trackHeadingDeg := 45, emitterCategory := 1
      callsign := #v[0x4E, 0x38, 0x32, 0x35, 0x56, 0x00, 0x00, 0x00], callsignLength := 5
      emergencyPriorityCode := 0, spare := 0 } := by decide +kernel
/-- spec/95 section 2.5, TR3: the greatest altitude, and vertical velocity 0x800, which is valid. -/
theorem test_decodeTr_tr3 :
    let r := decodeTr ((((scenarioA.set 11 0xFF).set 12 0xE9).set 15 0x08).set 16 0x00)
    r.altitudeFt = 101350 ∧ r.horizontalVelocityKt = 112 ∧ r.hasValidVerticalVelocity = true ∧
      r.verticalVelocityFpm = -131072 := by decide +kernel
/-- spec/95 section 2.6, payload `0B 7F FF 7F FF`: the figure of merit's sentinel. -/
theorem test_decodeOga_sentinel : decodeOga #v[0x0B, 0x7F, 0xFF, 0x7F, 0xFF] =
    ⟨0x0B, 0x0B, 0x7FFF, 163835, false, 0x7FFF, false, 0⟩ := by decide +kernel
/-- spec/95 section 2.6, payload `0B 80 00 80 00`: the lowest altitude and the warning bit. -/
theorem test_decodeOga_minimum : decodeOga #v[0x0B, 0x80, 0x00, 0x80, 0x00] =
    ⟨0x0B, 0x0B, 0x8000, -163840, true, 0x0000, true, 0⟩ := by decide +kernel

/-! ## The step -/

/-- spec/95 section 2.2: `7E` from reset, placed by `withFetchWord` as the table word of `HUNT_FLAG`. -/
theorem test_step_runs_placed_byte :
    shortOf (step (State.reset.withFetchWord 11 0x07E)) = some (.framing, false, 0, 0x0000, 0x00, 0x00) := by
  decide +kernel
/-- spec/95 section 2.2, FRAMING with `esc` = 1 and byte 5E: 0x7E is pushed. -/
theorem test_step_runs_placed_escaped_byte :
    shortOf (step (State.reset.withFetchWord 11 0x35E)) = some (.framing, false, 1, 0x0000, 0x00, 0x7E) := by
  decide +kernel
/-- R246: a message row runs inside the closing flag's step; a complete frame of an unknown ID is one error. -/
theorem test_step_runs_placed_message_row :
    eventsOf (step (State.reset.withFetchWord 8 0xFF)) = some [.error ⟨2, 0, true, 0xFF, false, 0x0000, 0x0000⟩] := by
  decide +kernel
/-- R305: a host that does not take the event stops the block. -/
theorem test_step_stuck : step { beforeFlagA with input := [⟨.byte 0x7E, false⟩] } = .fault .eventNotTaken := rfl

/-! ## Witnesses: states and operands that meet the hypotheses of the statements, clause by clause -/

theorem witness_wellFormed_of_every_row :
    Instr.huntFlag.wellFormed = true ∧ (Instr.huntDiscard 0x7F).wellFormed = true ∧ Instr.frameEnd.wellFormed = true ∧
    Instr.escape.wellFormed = true ∧ (Instr.data 0x7C).wellFormed = true ∧
    (Instr.escapedData 0x7D).wellFormed = true ∧ (Instr.terminatedByte 0x7E).wellFormed = true ∧
    Instr.shutdown.wellFormed = true ∧ Instr.reset.wellFormed = true ∧ Instr.dispatchTr.wellFormed = true ∧
    Instr.dispatchOga.wellFormed = true ∧ (Instr.dispatchUnknown 0x13).wellFormed = true := by decide

/-- One reading with the don't-care bit clear and one with it set. -/
theorem witness_decodedBytes :
    decode [0x7E, 0x02] = .ok .frameEnd ∧ decode [0x7E, 0x03] = .ok .frameEnd ∧ decode [0x41, 0x05] = .ok (.terminatedByte 0x41) ∧
    encode .frameEnd = [0x7E, 0x02] := ⟨rfl, rfl, rfl, rfl⟩

/-- Words with reserved bits set, at the ends of the range and beside the strobes' words. -/
theorem witness_reserved_bits (w : BitVec 16) (h : w = 0x0801 ∨ w = 0x0FFF ∨ w = 0x1800 ∨ w = 0x2000 ∨ w = 0xFFFF) :
    w.extractLsb' 11 5 ≠ 0 ∧ w ≠ shutdownWord ∧ w ≠ resetWord := by
  rcases h with rfl | rfl | rfl | rfl | rfl <;> decide

/-- A state for each class of R73, the byte beside the class's boundary. -/
theorem witness_presentedByte :
    State.reset.mode = .idle ∧ (framingWith []).mode = .framing ∧ (framingWith []).esc = false ∧
    ({ framingWith [] with esc := true } : State).esc = true ∧ terminated.mode = .terminated ∧
    (0x7F : Byte) ≠ 0x7E ∧ (0x7C : Byte) ≠ 0x7E ∧ (0x7C : Byte) ≠ 0x7D ∧ (0x7D : Byte) ≠ 0x7E := by decide

theorem witness_messageId : (0x15 : Byte) ≠ 0x14 ∧ (0x15 : Byte) ≠ 0x0B ∧ (0x0A : Byte) ≠ 0x14 ∧ (0x0A : Byte) ≠ 0x0B := by
  decide

/-- The first clause with no event. -/
theorem witness_stepRuns_quiet :
    let s : State := { State.reset with input := [⟨.byte 0x41, false⟩] }
    decode (transactionBytes s (.byte 0x41)) = .ok (.huntDiscard 0x41) ∧
    exec (.huntDiscard 0x41) { s with input := [] } = .next { s with input := [] } := ⟨rfl, rfl⟩
/-- The first clause with an event that the host takes. -/
theorem witness_stepRuns_event :
    let s : State := { framingWith [0x41] with input := [⟨.byte 0x7E, true⟩] }
    decode (transactionBytes s (.byte 0x7E)) = .ok .frameEnd ∧
    ∃ t, exec .frameEnd { s with input := [] } = .next t ∧ t.events ≠ s.events :=
  ⟨rfl, _, rfl, by decide +kernel⟩
/-- The second clause. -/
theorem witness_stepRuns_refused :
    let s : State := { terminated with input := [⟨.byte 0x00, true⟩] }
    decode (transactionBytes s (.byte 0x00)) = .ok (.terminatedByte 0x00) ∧
    exec (.terminatedByte 0x00) { s with input := [] } = .refused .byteAfterShutdown := ⟨rfl, rfl⟩

/-- The stuck side of the equivalence; `test_step_stuck` is its left side. -/
theorem witness_stuck :
    let s : State := { beforeFlagA with input := [⟨.byte 0x7E, false⟩] }
    decode (transactionBytes s (.byte 0x7E)) = .ok .frameEnd ∧
    ∃ t, exec .frameEnd { s with input := [] } = .next t ∧ t.events ≠ s.events :=
  ⟨rfl, _, rfl, by decide +kernel⟩

theorem witness_nothing_presented : State.reset.input = [] := rfl

theorem witness_one_transaction :
    ∃ s', step { framingWith [0x41] with input := [⟨.byte 0x7E, true⟩, ⟨.shutdown, true⟩] } = .next s' ∧
      s'.events.length = 1 :=
  ⟨_, rfl, by decide +kernel⟩

theorem witness_event_of_closing_flag :
    let s : State := { framingWith [0x00, 0x00] with input := [⟨.byte 0x7E, true⟩] }
    ∃ s', step s = .next s' ∧ s'.events ≠ s.events :=
  ⟨_, rfl, by decide +kernel⟩

theorem witness_instruction_completes : ∃ t, exec .frameEnd beforeFlagA = .next t := ⟨_, rfl⟩

/-- RESET leaves TERMINATED. -/
theorem witness_leaves_terminated :
    let s : State := { terminated with input := [⟨.reset, false⟩] }
    s.mode = .terminated ∧ ∃ s', step s = .next s' ∧ s'.mode ≠ .terminated :=
  ⟨rfl, _, rfl, by decide⟩

/-- SHUTDOWN in a consistent state already in TERMINATED. -/
theorem witness_shutdown_again : Consistent terminated ∧ terminated.mode = .terminated := ⟨terminated_consistent, rfl⟩
theorem witness_terminates :
    let s : State := { framingWith [0x41] with input := [⟨.shutdown, false⟩] }
    s.mode ≠ .terminated ∧ ∃ s', step s = .next s' ∧ s'.mode = .terminated :=
  ⟨by decide, _, rfl, rfl⟩

/-- Both ways out of IDLE. -/
theorem witness_leaves_idle :
    (∃ s', step { State.reset with input := [⟨.byte 0x7E, true⟩] } = .next s' ∧ s'.mode ≠ .idle) ∧
    (∃ s', step { State.reset with input := [⟨.shutdown, true⟩] } = .next s' ∧ s'.mode ≠ .idle) :=
  ⟨⟨_, rfl, by decide⟩, ⟨_, rfl, by decide⟩⟩

theorem witness_refused_byte :
    let s : State := { terminated with input := [⟨.byte 0x7E, true⟩] }
    s.input = ⟨.byte 0x7E, true⟩ :: [] ∧ s.mode = .terminated := ⟨rfl, rfl⟩

/-- The shortest content that reaches a row: `b b 00` (R139), for each row's ID and the IDs beside the known ones. -/
theorem witness_message_row (b : Byte) (h : b = 0x14 ∨ b = 0x0B ∨ b = 0x15 ∨ b = 0x0A) :
    3 ≤ (framingWith [b, b, 0x00]).cnt ∧ (framingWith [b, b, 0x00]).buf[0] = b ∧
    (framingWith [b, b, 0x00]).tNew ++ (framingWith [b, b, 0x00]).tOld = (framingWith [b, b, 0x00]).crc := by
  rcases h with rfl | rfl | rfl | rfl <;> decide +kernel

/-- A content for each kind of error, with its descriptor: SHORT_FRAME, MISMATCH, unknown, truncated with and without an ID
(spec/95 sections 2.3, 2.4 and 2.8). -/
def errorContents : List (List Byte × ErrorDescriptor) :=
  [([0x41], ⟨1, 1, false, 0x00, false, 0x0000, 0x0000⟩),
   ([0x00, 0x01], ⟨1, 0, false, 0x00, true, 0x0100, 0x0000⟩),
   ([0xFF, 0xFF, 0x00], ⟨2, 0, true, 0xFF, false, 0x0000, 0x0000⟩),
   ([0x14, 0x14, 0x00], ⟨3, 0, true, 0x14, false, 0x0000, 0x0000⟩),
   ([0x0B, 0x0B, 0x00], ⟨3, 0, true, 0x0B, false, 0x0000, 0x0000⟩),
   ([0x00, 0x00], ⟨3, 0, false, 0x00, false, 0x0000, 0x0000⟩)]

/-- `F`, closed by a flag, reports `d`. -/
def reports (p : List Byte × ErrorDescriptor) : Bool :=
  decide (eventsOf (step { framingWith p.1 with input := [⟨.byte 0x7E, true⟩] }) = some ([] ++ [Event.error p.2]))

theorem test_errorContents : errorContents.all reports = true := by decide +kernel

/-- A step that reports each of them. -/
theorem witness_each_error (F : List Byte) (d : ErrorDescriptor) (h : (F, d) ∈ errorContents) :
    ∃ s', step { framingWith F with input := [⟨.byte 0x7E, true⟩] } = .next s' ∧ s'.events = [] ++ [Event.error d] :=
  next_of_eventsOf (of_decide_eq_true (List.all_eq_true.mp test_errorContents (F, d) h))

/-- A step that delivers each kind of message, from the least count that does. -/
theorem witness_each_message :
    (∃ s', step { beforeFlagA with input := [⟨.byte 0x7E, true⟩] } = .next s' ∧
      s'.events = [] ++ [Event.trafficReport (decodeTr scenarioA)]) ∧
    (∃ s', step { framingWith contentOga with input := [⟨.byte 0x7E, true⟩] } = .next s' ∧
      s'.events = [] ++ [Event.ownshipGeometricAltitude ⟨0x0B, 0x0B, 0x00C8, 1000, false, 0x000A, true, 10⟩]) :=
  ⟨next_of_eventsOf (by decide +kernel), next_of_eventsOf (by decide +kernel)⟩

/-- The altitude's raw value at its two ends and its sentinel (R178's corner cases). -/
theorem witness_altitude :
    (0x000 : Nat) = (0x00 : Byte).toNat * 16 + (0x09 : Byte).toNat / 16 ∧
    (0xFFE : Nat) = (0xFF : Byte).toNat * 16 + (0xE9 : Byte).toNat / 16 ∧
    (0xFFF : Nat) = (0xFF : Byte).toNat * 16 + (0xF9 : Byte).toNat / 16 := by decide
/-- Both velocities at their ends and sentinels (R184's and R185's corner cases). -/
theorem witness_velocities :
    (0xFFE : Nat) = (0xFF : Byte).toNat * 16 + (0xEF : Byte).toNat / 16 ∧
    (0xFFF : Nat) = (0xFF : Byte).toNat * 16 + (0xFF : Byte).toNat / 16 ∧
    (0x7FF : Nat) = (0x07 : Byte).toNat % 16 * 256 + (0xFF : Byte).toNat ∧
    (0x800 : Nat) = (0x08 : Byte).toNat % 16 * 256 + (0x00 : Byte).toNat ∧
    (0xFFF : Nat) = (0xFF : Byte).toNat % 16 * 256 + (0xFF : Byte).toNat := by decide
/-- Latitude and longitude at the two ends of the sign (R175's corner cases). -/
theorem witness_position :
    (0x7FFFFF : Int) = (0x7F : Byte).toNat * 65536 + (0xFF : Byte).toNat * 256 + (0xFF : Byte).toNat ∧
    (0x800000 : Int) = (0x80 : Byte).toNat * 65536 + (0x00 : Byte).toNat * 256 + (0x00 : Byte).toNat := by decide
/-- The callsign lengths 0, 3 and 8 (R188's corner cases). -/
theorem witness_callsign :
    callsignLengthOf (Vector.replicate 8 0x20) = 0 ∧
    callsignLengthOf #v[0x41, 0x00, 0x42, 0x20, 0x20, 0x20, 0x20, 0x20] = 3 ∧
    callsignLengthOf #v[0x41, 0x42, 0x43, 0x44, 0x45, 0x46, 0x47, 0x48] = 8 := by decide +kernel
/-- The ownship fields at their ends (R222's and R224's corner cases). -/
theorem witness_ownship :
    (0x7FFF : Nat) = (0x7F : Byte).toNat * 256 + (0xFF : Byte).toNat ∧
    (0x8000 : Nat) = (0x80 : Byte).toNat * 256 + (0x00 : Byte).toNat ∧
    (0x7FFE : Nat) = (0x7F : Byte).toNat % 128 * 256 + (0xFE : Byte).toNat ∧
    (0x7FFF : Nat) = (0xFF : Byte).toNat % 128 * 256 + (0xFF : Byte).toNat := by decide

/-- A matching content changed in its payload, and in its last check byte. -/
theorem witness_single_byte_change (k : Nat) (h : k = 1 ∨ k = 6) :
    5 ≤ (framingWith (contentOga.set k 0x01)).cntW ∧ 2 ≤ contentOga.length ∧
    contentCheckValue contentOga = crcOf (contentOga.take (contentOga.length - 2)) ∧
    k < contentOga.length ∧ contentOga[k]? ≠ some 0x01 ∧
    HoldsContent (framingWith (contentOga.set k 0x01)) (contentOga.set k 0x01) := by
  refine ⟨by rw [(framingWith_frame _).2.2]; decide, by decide, by decide +kernel, ?_, ?_, framingWith_holds _⟩ <;>
    rcases h with rfl | rfl <;> decide

/-- A consistent state in each mode, and a step from it. -/
theorem witness_consistent_step :
    (Consistent State.reset ∧ ∃ s', step State.reset = .next s') ∧
    (Consistent (framingWith contentOga) ∧ ∃ s', step (framingWith contentOga) = .next s') ∧
    (Consistent terminated ∧ ∃ s', step terminated = .next s') :=
  ⟨⟨⟨by decide, fun h => (by cases h), fun _ => ⟨rfl, rfl, rfl, rfl, rfl, rfl⟩⟩, _, rfl⟩, ⟨framingWith_consistent _, _, rfl⟩,
    ⟨terminated_consistent, _, rfl⟩⟩

theorem witness_holds_content :
    5 ≤ (framingWith contentOga).cntW ∧ HoldsContent (framingWith contentOga) contentOga :=
  ⟨by rw [(framingWith_frame _).2.2]; decide, framingWith_holds _⟩

/-- The least width beside the reference width, the counters at the least width's `CNT_MAX` and past it. -/
theorem witness_same_but_width :
    SameButWidth { framingWith [] with cntW := 5, cnt := 31, input := [⟨.byte 0x7E, true⟩] }
      { framingWith [] with cnt := 42, input := [⟨.byte 0x7E, true⟩] } ∧
    (∃ s', step { framingWith [] with cntW := 5, cnt := 31, input := [⟨.byte 0x7E, true⟩] } = .next s') ∧
    step { framingWith [] with cntW := 5, cnt := 31, input := [⟨.byte 0x7E, false⟩] } = .fault .eventNotTaken :=
  ⟨⟨by decide, by decide, ⟨42, by decide, by decide⟩, rfl⟩, ⟨_, rfl⟩, rfl⟩

/-- Two blocks that differ in every stale value of a one-byte content, and a step of each outcome. -/
theorem witness_same_but_stale :
    let s : State := { framingWith [0x41] with input := [⟨.byte 0x7E, true⟩] }
    let u : State := { framingWith [0x41] with input := [⟨.byte 0x7E, false⟩] }
    SameButStale s { s with tOld := 0xFF, buf := (Vector.replicate 28 0xFF).set 0 0x41 } ∧
    (∃ s', step s = .next s') ∧
    SameButStale u { u with tOld := 0xFF, buf := (Vector.replicate 28 0xFF).set 0 0x41 } ∧
    step u = .fault .eventNotTaken := by
  have h : ∀ i (_ : i < 28), i < 1 →
      ((Vector.replicate 28 (0xFF : Byte)).set 0 0x41)[i] = (framingWith [0x41]).buf[i] := by
    intro i hi h1
    obtain rfl : i = 0 := by omega
    rfl
  exact ⟨⟨by decide, h, fun _ => rfl, fun h2 => absurd h2 (by decide), rfl⟩, ⟨_, rfl⟩,
    ⟨by decide, h, fun _ => rfl, fun h2 => absurd h2 (by decide), rfl⟩, rfl⟩

/-- The bytes of a cut frame with no flag among them, in IDLE. -/
theorem witness_no_flag : State.reset.mode = .idle ∧ (0x7E : Byte) ∉ [0x7D, 0x7F, 0x41] := by decide

/-- A content of exactly 30 bytes, the least that fills the frame store with payload. -/
theorem witness_full_payload :
    HoldsContent (framingWith (scenarioA.toList ++ [0x57, 0xD6])) (scenarioA.toList ++ [0x57, 0xD6]) ∧
    30 ≤ (scenarioA.toList ++ [(0x57 : Byte), 0xD6]).length :=
  ⟨framingWith_holds _, by decide⟩

/-- A flag presented in IDLE and in FRAMING with an escape pending. -/
theorem witness_resynchronise :
    State.reset.mode ≠ .terminated ∧ ({ framingWith contentOga with esc := true } : State).mode ≠ .terminated := by decide

/-- The hypotheses of the statements about feeding: a legal width, and the modes they name. -/
theorem witness_feed :
    5 ≤ State.reset.cntW ∧ State.reset.mode = .idle ∧ State.reset.mode ≠ .terminated ∧
    5 ≤ (framingWith []).cntW ∧ (framingWith []).mode = .framing ∧ (framingWith []).cnt = 0 ∧
    (framingWith contentOga).mode ≠ .terminated := by decide

end Sys2Proof.Tests
end

