-- ==== Sys2Proof/Proofs/Encoding.lean ====
section
/-! PROOFS. The decode of a presented byte (spec/30_encoding.md R73) and of a message ID (R78). -/

namespace Sys2Proof

open Machine

/-! ### The class of a byte, one equation per mode -/

section
variable {s : State} (b : Byte)

theorem byteInstr_of_idle (hm : s.mode = .idle) :
    byteInstr s b = if b = 0x7E then .huntFlag else .huntDiscard b := by
  simp [byteInstr, hm]

theorem byteInstr_of_framing (hm : s.mode = .framing) :
    byteInstr s b =
      if b = 0x7E then .frameEnd else if s.esc then .escapedData b else if b = 0x7D then .escape else .data b := by
  simp [byteInstr, hm]

theorem byteInstr_of_terminated (hm : s.mode = .terminated) : byteInstr s b = .terminatedByte b := by
  simp [byteInstr, hm]

end

theorem Consistent.esc_eq_false {s : State} (hs : Consistent s) (hm : s.mode ≠ .framing) : s.esc = false :=
  (hs.resting hm).esc

/-- Settles O6: a presented byte decodes to its class, and the class is read off mode by mode. -/
theorem presentedByteDecodesToItsClass : Obligations.PresentedByteDecodesToItsClass := by
  intro s b
  have hdec : decode (transactionBytes s (.byte b)) = .ok (byteInstr s b) := decode_transactionBytes s (.byte b)
  rw [hdec]
  refine ⟨fun hm hb => ?huntFlag, fun hm hb => ?huntDiscard, fun hm hb => ?frameEnd, fun hm he hb => ?escape,
    fun hm he hf hx => ?data, fun hm he hb => ?escapedData, fun hm => ?terminatedByte,
    fun hs hm => hs.esc_eq_false hm⟩
  case huntFlag => rw [byteInstr_of_idle b hm, if_pos hb]
  case huntDiscard => rw [byteInstr_of_idle b hm, if_neg hb]
  case frameEnd => rw [byteInstr_of_framing b hm, if_pos hb]
  case escape =>
    have hf : b ≠ 0x7E := by rw [hb]; decide
    rw [byteInstr_of_framing b hm, if_neg hf, he, if_neg Bool.false_ne_true, if_pos hb]
  case data => rw [byteInstr_of_framing b hm, if_neg hf, he, if_neg Bool.false_ne_true, if_neg hx]
  case escapedData => rw [byteInstr_of_framing b hm, if_neg hb, if_pos he]
  case terminatedByte => rw [byteInstr_of_terminated b hm]

/-! ### The row of a message ID -/

theorem decode_messageId (id : Byte) : decode [id] = .ok (messageIdRow id) := rfl

theorem messageIdRow_of_unknown {id : Byte} (htr : id ≠ 0x14) (hoga : id ≠ 0x0B) :
    messageIdRow id = .dispatchUnknown id := by
  rw [messageIdRow, if_neg htr, if_neg hoga]

theorem exec_dispatchUnknown (id : Byte) (s : State) :
    exec (.dispatchUnknown id) s = .next (s.raise (unknownMessageError id)) := rfl

/-- Settles O7: the three cases of the ID, and the one event of the row of an unknown ID. -/
theorem messageIdSelectsItsRow : Obligations.MessageIdSelectsItsRow := by
  refine ⟨decode_messageId 0x14, decode_messageId 0x0B, fun id htr hoga => ⟨?decodes, fun s _ _ => ?emits⟩⟩
  case decodes => rw [decode_messageId, messageIdRow_of_unknown htr hoga]
  case emits => exact ⟨_, exec_dispatchUnknown id s, State.raise_events _ s⟩

end Sys2Proof
end


-- ==== Sys2Proof/Proofs/Framer.lean ====
section
/-! PROOFS. The framer's byte classes: HUNT_FLAG, HUNT_DISCARD, ESCAPE and TERMINATED_BYTE (spec/40_framer.md R103, R104, R106, R109). -/

namespace Sys2Proof

open Machine

/-! ### The decode words of the byte classes -/

theorem decode_byteWord_idle (e : Bool) (b : Byte) :
    decode (wordBytes (byteWord 0b00 e b)) = .ok (if b = 0x7E then .huntFlag else .huntDiscard b) :=
  Laws.decode_of_decoded? (decodeWord_byteWord_idle e b)

theorem decode_byteWord_framing (e : Bool) (b : Byte) :
    decode (wordBytes (byteWord 0b01 e b)) =
      .ok (if b = 0x7E then .frameEnd else if e then .escapedData b else if b = 0x7D then .escape else .data b) :=
  Laws.decode_of_decoded? (decodeWord_byteWord_framing e b)

theorem decode_byteWord_terminated (e : Bool) (b : Byte) :
    decode (wordBytes (byteWord 0b10 e b)) = .ok (.terminatedByte b) :=
  Laws.decode_of_decoded? (decodeWord_byteWord_terminated e b)

/-! ### The rows, one equation each -/

section
variable (s : State)

theorem exec_huntFlag : exec .huntFlag s = .next (s.startFrame.setMode .framing) := rfl

theorem exec_huntDiscard (b : Byte) : exec (.huntDiscard b) s = .next s := rfl

theorem exec_escape : exec .escape s = .next (s.setEsc true) := rfl

theorem exec_terminatedByte (b : Byte) : exec (.terminatedByte b) s = .refused .byteAfterShutdown := rfl

theorem exec_shutdown : exec .shutdown s = .next (s.startFrame.setMode .terminated) := rfl

end

/-! ### SHUTDOWN where nothing is left to clear -/

theorem Cleared.startFrame_eq {s : State} (h : Cleared s) : s.startFrame = s := by
  obtain ⟨hesc, hcnt, hcrc, htOld, htNew, hbuf⟩ := h
  cases s
  simp_all [State.startFrame]

theorem setMode_eq_self {s : State} {m : Mode} (h : s.mode = m) : s.setMode m = s := by
  subst h
  rfl

/-- SHUTDOWN repeated: a consistent state in TERMINATED is already clear, so nothing changes (R109, R243). -/
theorem exec_shutdown_of_terminated {s : State} (hs : Consistent s) (hm : s.mode = .terminated) :
    exec .shutdown s = .next s := by
  have hclear : Cleared s := hs.resting (by simp [hm])
  rw [exec_shutdown, hclear.startFrame_eq, setMode_eq_self hm]

/-! ### The ways out of a mode -/

/-- Only a flag and SHUTDOWN leave IDLE (R103). -/
theorem step_leaves_idle {s s' : State} (h : step s = .next s') (hm : s.mode = .idle) (hm' : s'.mode ≠ .idle) :
    ∃ o rest, s.input = o :: rest ∧ (o.tx = .byte 0x7E ∨ o.tx = .shutdown) := by
  rcases step_mode_cases h with hsame | ⟨o, rest, hin, ⟨-, hidle⟩ | ⟨htx, -⟩ | ⟨htx, -, -⟩⟩
  · exact absurd (hsame.trans hm) hm'
  · exact absurd hidle hm'
  · exact ⟨o, rest, hin, .inr htx⟩
  · exact ⟨o, rest, hin, .inl htx⟩

/-- Only RESET leaves TERMINATED (R109, R244). -/
theorem step_leaves_terminated {s s' : State} (h : step s = .next s') (hm : s.mode = .terminated)
    (hm' : s'.mode ≠ .terminated) : ∃ o rest, s.input = o :: rest ∧ o.tx = .reset := by
  rcases step_mode_cases h with hsame | ⟨o, rest, hin, ⟨htx, -⟩ | ⟨-, hterm⟩ | ⟨-, hidle, -⟩⟩
  · exact absurd (hsame.trans hm) hm'
  · exact ⟨o, rest, hin, htx⟩
  · exact absurd hterm hm'
  · exact absurd (hm.symm.trans hidle) (by decide)

/-! ### Fed bytes that do not end a frame -/

/-- A fed byte whose row answers `t` is accepted, and leaves `t`. -/
theorem byteStep_of_next {s t : State} {b : Byte} (h : exec (byteInstr s b) s = .next t) :
    byteStep s b = t.respond true := by
  simp only [byteStep, h]

theorem byteStep_huntDiscard {s : State} {b : Byte} (hm : s.mode = .idle) (hb : b ≠ 0x7E) :
    byteStep s b = s.respond true := by
  apply byteStep_of_next
  rw [byteInstr_of_idle b hm, if_neg hb, exec_huntDiscard]

theorem byteStep_escape {s : State} (hm : s.mode = .framing) (he : s.esc = false) :
    byteStep s 0x7D = (s.setEsc true).respond true := by
  have hrow : byteInstr s 0x7D = .escape := by simp [byteInstr_of_framing _ hm, he]
  exact byteStep_of_next (by rw [hrow, exec_escape])

/-- Bytes without a flag, fed in IDLE, leave only their answers (R104). -/
theorem feed_without_flag_of_idle (bs : List Byte) {s : State} (hm : s.mode = .idle) (hbs : 0x7E ∉ bs) :
    feed bs s = .next { s with responses := s.responses ++ List.replicate bs.length true } := by
  induction bs generalizing s with
  | nil => simp
  | cons b bs ih =>
    rw [List.mem_cons, not_or] at hbs
    obtain ⟨hb, hrest⟩ := hbs
    rw [feed_cons, byteStep_huntDiscard hm (Ne.symm hb), ih (s := s.respond true) hm hrest]
    simp [State.respond, List.replicate_succ]

/-! ### The obligations -/

/-- Settles O18: the decode word, the row's whole next state, and the ways out of IDLE. -/
theorem huntFlagCompletesAndOpensTheFrame : Obligations.HuntFlagCompletesAndOpensTheFrame := by
  refine ⟨fun e => ?decodes, fun s => exec_huntFlag s, fun _ _ h hm hm' => step_leaves_idle h hm hm'⟩
  case decodes => rw [decode_byteWord_idle, if_pos rfl]

/-- Settles O19: the decode word, the unchanged state, and a feed without a flag by induction on its bytes. -/
theorem huntDiscardCompletesUnchanged : Obligations.HuntDiscardCompletesUnchanged := by
  refine ⟨fun e b hb => ?decodes, fun b s => exec_huntDiscard s b, fun bs _ hm hbs => feed_without_flag_of_idle bs hm hbs⟩
  case decodes => rw [decode_byteWord_idle, if_neg hb]

/-- Settles O20: the decode word, the row's whole next state, and the pending escape at the end of a feed. -/
theorem escapeCompletesAndArmsEsc : Obligations.EscapeCompletesAndArmsEsc := by
  refine ⟨?decodes, fun s => exec_escape s, fun s hm he => ⟨(s.setEsc true).respond true, ?feeds, rfl, rfl, rfl⟩⟩
  case decodes => exact decode_byteWord_framing false 0x7D
  case feeds => rw [feed_cons, feed_nil, byteStep_escape hm he]

/-- Settles O23: the decode word, the refusal, input-ready, SHUTDOWN repeated, and the one way out of TERMINATED. -/
theorem terminatedByteIsRefused : Obligations.TerminatedByteIsRefused := by
  refine ⟨decode_byteWord_terminated, fun b s => exec_terminatedByte s b, fun s hm => ?notReady,
    fun _ hs hm => exec_shutdown_of_terminated hs hm, fun _ _ h hm hm' => step_leaves_terminated h hm hm'⟩
  case notReady => simp [State.inReady, hm]

end Sys2Proof
end


-- ==== Sys2Proof/Proofs/FrameEnd.lean ====
section
/-! PROOFS. The closing flag: `VALIDATE`'s answer decides between its error and `DISPATCH` (spec/41_crc_validator.md R133), and the
frame is cleared after the one event (spec/45_stream_processor.md R240 to R242). -/

namespace Sys2Proof

open Machine

section
variable {s : State}

/-! ### `FrameEnd`, one equation per answer of `VALIDATE` -/

theorem frameEnd_of_empty (h0 : s.cnt = 0) : frameEnd s = s := if_pos h0

theorem frameEnd_of_invalid {d : ErrorDescriptor} (h0 : s.cnt ≠ 0) (hv : validate s = some d) :
    frameEnd s = s.raise d := by
  rw [frameEnd, if_neg h0, hv]

theorem frameEnd_of_valid (h0 : s.cnt ≠ 0) (hv : validate s = none) : frameEnd s = dispatch s := by
  rw [frameEnd, if_neg h0, hv]

/-! ### `DISPATCH` by the number of content bytes -/

theorem payloadLength_lt_iff {k : Nat} (hk : 0 < k) : s.payloadLength < k ↔ s.cnt < k + 2 := by
  rw [State.payloadLength]
  omega

theorem payloadLength_eq_zero_iff (h2 : 2 ≤ s.cnt) : s.payloadLength = 0 ↔ s.cnt = 2 := by
  rw [State.payloadLength]
  omega

/-- `dispatch_eq` with its length tests on the counter: the two check bytes count as content (R137). -/
theorem dispatch_eq_of_two_le_cnt (h2 : 2 ≤ s.cnt) : dispatch s = s.emit
    (if s.cnt = 2 then .error emptyPayloadError
      else if s.buf[0] = 0x14 then
        (if s.cnt < 30 then .error (truncatedError 0x14) else .trafficReport (decodeTr s.buf))
      else if s.buf[0] = 0x0B then
        (if s.cnt < 7 then .error (truncatedError 0x0B) else .ownshipGeometricAltitude (decodeOga s.ogaSlice))
      else .error (unknownMessageError s.buf[0])) := by
  simp only [dispatch_eq, payloadLength_eq_zero_iff h2, payloadLength_lt_iff (show 0 < 28 by decide),
    payloadLength_lt_iff (show 0 < 5 by decide)]

/-! ### The whole row -/

/-- The row clears the frame after `FrameEnd`, so the events `FrameEnd` appends fix the row's whole next state (R105, R242). -/
theorem exec_frameEnd_of_events {evs : List Event} (h : frameEnd s = { s with events := s.events ++ evs }) :
    exec .frameEnd s = .next { s with
      esc := false, cnt := 0, crc := 0x0000, tOld := 0x00, tNew := 0x00, buf := Vector.replicate 28 0x00
      events := s.events ++ evs } := by
  rw [show exec .frameEnd s = .next (frameEnd s).startFrame from rfl, h]
  rfl

end

/-- Settles O25: an empty frame, then `VALIDATE`'s three answers, the last of which goes to `DISPATCH`. -/
theorem frameEndCompletesWithTheFirstOutcomeThatApplies : Obligations.FrameEndCompletesWithTheFirstOutcomeThatApplies := by
  intro s
  apply exec_frameEnd_of_events
  by_cases h0 : s.cnt = 0
  case pos => rw [frameEnd_of_empty h0, if_pos h0, List.append_nil]
  rw [if_neg h0, ← rxCrc_eq_append]
  obtain ⟨h1, hv⟩ | ⟨h1, hne, hv⟩ | ⟨h1, heq, hv⟩ := validate_cases s
  case inl =>
    rw [frameEnd_of_invalid h0 hv, if_pos h1]
    rfl
  case inr.inl =>
    rw [frameEnd_of_invalid h0 hv, if_neg h1, if_pos hne]
    rfl
  case inr.inr =>
    have h2 : 2 ≤ s.cnt := by omega
    rw [frameEnd_of_valid h0 hv, if_neg h1, if_neg (not_not.mpr heq), dispatch_eq_of_two_le_cnt h2]
    split_ifs <;> rfl

end Sys2Proof
end


-- ==== Sys2Proof/Proofs/Dispatcher.lean ====
section
/-! PROOFS. The Message Dispatcher's three rows, each on its own (spec/42_dispatcher.md R153 to R155), and the payload a full frame
store holds. -/

namespace Sys2Proof

open Machine

/-! ### The rows, one equation each -/

theorem exec_dispatchTr (s : State) : exec .dispatchTr s = .next (s.emit
    (if s.payloadLength < 28 then .error (truncatedError 0x14) else .trafficReport (decodeTr s.buf))) :=
  congrArg Host.Outcome.next (dispatchTr_eq s)

theorem exec_dispatchOga (s : State) : exec .dispatchOga s = .next (s.emit
    (if s.payloadLength < 5 then .error (truncatedError 0x0B)
      else .ownshipGeometricAltitude (decodeOga s.ogaSlice))) :=
  congrArg Host.Outcome.next (dispatchOga_eq s)

/-- The row of an unknown ID is the row of all IDs but the two known ones (R78). -/
theorem messageIdRow_eq_dispatchUnknown_iff (id : Byte) :
    messageIdRow id = .dispatchUnknown id ↔ id ≠ 0x14 ∧ id ≠ 0x0B := by
  constructor
  case mp =>
    intro hrow
    constructor
    · rintro rfl
      exact absurd hrow (by decide)
    · rintro rfl
      exact absurd hrow (by decide)
  case mpr =>
    rintro ⟨htr, hoga⟩
    exact messageIdRow_of_unknown htr hoga

/-! ### The frame store of a long content -/

/-- Every stored index below the content's length holds that byte of the content (R29). -/
theorem HoldsContent.getElem?_eq_buf {s : State} {F : List Byte} (h : HoldsContent s F) {i : Nat} (hi : i < 28)
    (hF : i < F.length) : F[i]? = some s.buf[i] := by
  rw [List.getElem?_eq_getElem hF, h.buf i hi hF]

/-! ### The obligations -/

/-- Settles O26: the row of ID 0x14, its one event, and the first 28 bytes of a content that fills the frame store. -/
theorem dispatchTrCompletesWithRecordOrTruncation : Obligations.DispatchTrCompletesWithRecordOrTruncation := by
  refine ⟨decode_messageId 0x14, fun s _ _ => exec_dispatchTr s, fun s F hF hlen i hi => ?stored⟩
  case stored => exact hF.getElem?_eq_buf hi (by omega)

/-- Settles O27: the row of ID 0x0B and its one event. -/
theorem dispatchOgaCompletesWithRecordOrTruncation : Obligations.DispatchOgaCompletesWithRecordOrTruncation :=
  ⟨decode_messageId 0x0B, fun s _ _ => exec_dispatchOga s⟩

/-- Settles O28: the IDs of the row, and its one event, which no length decides. -/
theorem dispatchUnknownCompletesWithTheRawId : Obligations.DispatchUnknownCompletesWithTheRawId := by
  refine ⟨fun id => ?decodes, fun id s _ _ _ _ => exec_dispatchUnknown id s⟩
  case decodes =>
    rw [decode_messageId, Except.ok.injEq]
    exact messageIdRow_eq_dispatchUnknown_iff id

end Sys2Proof
end


-- ==== Sys2Proof/Proofs/TrafficReport.lean ====
section
/-! PROOFS. The fields of the Traffic Report record (spec/43_traffic_report.md R172 to R190): what each is, as arithmetic on the 28
payload bytes. -/

namespace Sys2Proof

open Machine

/-! ### Digits of a word: two's complement, zero extension, the digits that are all zero -/

/-- `sext` of a word whose unsigned value is `n` (R11). -/
theorem toInt_of_toNat_eq {w n : Nat} {x : BitVec (w + 1)} (hx : x.toNat = n) :
    x.toInt = if n < 2 ^ w then (n : Int) else (n : Int) - 2 ^ (w + 1) := by
  have hhalf : 2 * n < 2 ^ (w + 1) ↔ n < 2 ^ w := by omega
  rw [BitVec.toInt_eq_toNat_cond, hx]
  exact if_congr hhalf rfl (by norm_cast)

/-- `zext` of the `n` bits of a byte from bit `k` on. -/
theorem setWidth_extractLsb'_toNat (b : Byte) (k : Nat) {n w : Nat} (hnw : n ≤ w) :
    ((b.extractLsb' k n).setWidth w).toNat = b.toNat / 2 ^ k % 2 ^ n := by
  rw [BitVec.toNat_setWidth_of_le hnw, BitVec.extractLsb'_toNat, Nat.shiftRight_eq_div_pow]

theorem be24_eq_zero_iff (a b c : Byte) : be24 a b c = 0 ↔ a = 0 ∧ b = 0 ∧ c = 0 := by
  simp only [← BitVec.toNat_inj, be24_toNat, BitVec.ofNat_eq_ofNat, BitVec.toNat_ofNat, Nat.zero_mod]
  omega

theorem hiNibble_eq_zero_iff (b : Byte) : hiNibble b = 0 ↔ b.toNat < 16 := by
  simp only [← BitVec.toNat_inj, hiNibble_toNat, BitVec.ofNat_eq_ofNat, BitVec.toNat_ofNat, Nat.zero_mod]
  omega

/-! ### The engineering transforms -/

theorem degreesOfRaw_eq (raw : BitVec 24) : degreesOfRaw raw = (raw.toInt : Rat) * 180 / 2 ^ 23 := by
  rw [degreesOfRaw, Rat.mkRat_eq_div]
  push_cast
  rfl

/-- The range of an angle is that of the signed 24-bit word it is computed from (R175, R176). -/
theorem degreesOfRaw_range (raw : BitVec 24) :
    -180 ≤ degreesOfRaw raw ∧ degreesOfRaw raw ≤ 180 - 180 / 2 ^ 23 := by
  have hlow : (-2 ^ 23 : Rat) ≤ raw.toInt := by exact_mod_cast BitVec.le_toInt raw
  have hhigh : (raw.toInt : Rat) ≤ 2 ^ 23 - 1 := by exact_mod_cast Int.le_sub_one_of_lt (BitVec.toInt_lt (x := raw))
  rw [degreesOfRaw_eq]
  constructor <;> linarith

/-- One coordinate of the position, from its three bytes: the raw field, the exact degrees, and their range (R175, R176). -/
theorem coordinate_of_bytes (a b c : Byte) {n : Int} (hn : n = a.toNat * 65536 + b.toNat * 256 + c.toNat) :
    ((be24 a b c).toNat : Int) = n ∧
    degreesOfRaw (be24 a b c) = (if n < 2 ^ 23 then n else n - 2 ^ 24 : Int) * 180 / 2 ^ 23 ∧
    -180 ≤ degreesOfRaw (be24 a b c) ∧ degreesOfRaw (be24 a b c) ≤ 180 - 180 / 2 ^ 23 := by
  have hraw : ((be24 a b c).toNat : Int) = n := by
    rw [be24_toNat, hn]
    push_cast
    rfl
  have hsigned : (be24 a b c).toInt = if n < 2 ^ 23 then n else n - 2 ^ 24 := by
    rw [← hraw]
    exact_mod_cast toInt_of_toNat_eq rfl
  exact ⟨hraw, by rw [degreesOfRaw_eq, hsigned], degreesOfRaw_range _⟩

theorem headingOfRaw_eq (b : Byte) : headingOfRaw b = (b.toNat : Rat) * 360 / 256 := by
  rw [headingOfRaw, Rat.mkRat_eq_div]
  push_cast
  rfl

theorem altitudeOfRaw_of_toNat_eq {x : BitVec 12} {raw : Nat} (hx : x.toNat = raw) :
    altitudeOfRaw x = (raw : Int) * 25 - 1000 := by
  rw [altitudeOfRaw, hx]

theorem horizontalVelocityOfRaw_of_toNat_eq {x : BitVec 12} {h : Nat} (hx : x.toNat = h) :
    horizontalVelocityOfRaw x = h := by
  rw [horizontalVelocityOfRaw, hx, hvLsbKt, Nat.mul_one]

theorem verticalVelocityOfRaw_of_toNat_eq {x : BitVec 12} {v : Nat} (hx : x.toNat = v) :
    verticalVelocityOfRaw x = (if v < 2048 then (v : Int) else (v : Int) - 4096) * 64 := by
  rw [verticalVelocityOfRaw, toInt_of_toNat_eq hx]
  rfl

/-! ### The validity flags -/

theorem hasValidPositionOf_eq_false_iff (lat lon : BitVec 24) (nic : BitVec 4) :
    hasValidPositionOf lat lon nic = false ↔ lat = 0 ∧ lon = 0 ∧ nic = 0 := by
  simp [hasValidPositionOf, and_assoc]

/-- The flag of a 12-bit field and what the field's value is with it: the value of the raw word, or the chosen default 0 at the
sentinel (R178, R184, R185). -/
theorem sentinel12_of_toNat_eq {α : Type} [OfNat α 0] {x : BitVec 12} {raw : Nat} (hx : x.toNat = raw) {value value' : α}
    (hvalue : value = value') :
    ((x != 0xFFF) = true ↔ raw ≠ 0xFFF) ∧
    (if x != 0xFFF then value else 0) = if raw ≠ 0xFFF then value' else 0 := by
  have hvalid : (x != 0xFFF) = true ↔ raw ≠ 0xFFF := hx ▸ ne_sentinel12_iff x
  exact ⟨hvalid, if_congr hvalid hvalue rfl⟩

/-! ### The callsign -/

theorem callsignOf_getElem (raw : Vector Byte 8) (i : Nat) (hi : i < 8) :
    (callsignOf raw)[i] = if i < callsignLengthOf raw then raw[i] else 0x00 := by
  simp [callsignOf]

/-! ### The obligations -/

/-- Settles O32: each code is a nibble, a byte, or three bytes of the payload. -/
theorem trafficReportPassesItsCodesThrough : Obligations.TrafficReportPassesItsCodesThrough := fun m =>
  ⟨hiNibble_toNat m[1], loNibble_toNat m[1], be24_toNat m[2] m[3] m[4], hiNibble_toNat m[13], loNibble_toNat m[13], rfl,
    hiNibble_toNat m[27], loNibble_toNat m[27]⟩

/-- Settles O33: latitude and longitude are each the coordinate of their three bytes. -/
theorem trafficReportPositionIsExactDegrees : Obligations.TrafficReportPositionIsExactDegrees := by
  intro m lat lon hlat hlon
  obtain ⟨hlatRaw, hlatDeg, hlatLow, hlatHigh⟩ := coordinate_of_bytes m[5] m[6] m[7] hlat
  exact ⟨hlatRaw, hlatDeg, hlatLow, hlatHigh, coordinate_of_bytes m[8] m[9] m[10] hlon⟩

/-- Settles O34: a field of the position is zero exactly when its bytes are. -/
theorem positionIsInvalidExactlyWhenLatLonNicAreZero : Obligations.PositionIsInvalidExactlyWhenLatLonNicAreZero := by
  intro m
  have hflag : (decodeTr m).hasValidPosition = false ↔
      be24 m[5] m[6] m[7] = 0 ∧ be24 m[8] m[9] m[10] = 0 ∧ hiNibble m[13] = 0 :=
    hasValidPositionOf_eq_false_iff _ _ _
  rw [hflag, be24_eq_zero_iff, be24_eq_zero_iff, hiNibble_eq_zero_iff]
  simp only [and_assoc]

/-- Settles O35: the altitude is a 12-bit field with a sentinel. -/
theorem trafficReportAltitudeHasOffsetAndSentinel : Obligations.TrafficReportAltitudeHasOffsetAndSentinel := by
  intro m raw hraw
  have hx : (trAltitudeRaw m).toNat = raw := (be16_high12_toNat m[11] m[12]).trans hraw.symm
  exact ⟨hx, sentinel12_of_toNat_eq hx (altitudeOfRaw_of_toNat_eq hx)⟩

/-- Settles O36: each code is the zero extension of its bits of `m[12]`. -/
theorem trafficReportSplitsTheMiscNibble : Obligations.TrafficReportSplitsTheMiscNibble := by
  intro m
  have htype : (trTrackHeadingType m).toNat = m[12].toNat / 2 ^ 0 % 2 ^ 2 := setWidth_extractLsb'_toNat _ _ (by decide)
  have hstatus : (trReportStatus m).toNat = m[12].toNat / 2 ^ 2 % 2 ^ 1 := setWidth_extractLsb'_toNat _ _ (by decide)
  have hground : (trAirGroundState m).toNat = m[12].toNat / 2 ^ 3 % 2 ^ 1 := setWidth_extractLsb'_toNat _ _ (by decide)
  rw [pow_zero, Nat.div_one] at htype
  exact ⟨htype, hstatus, hground⟩

/-- Settles O37: both velocities are 12-bit fields with a sentinel, and share byte 15. -/
theorem trafficReportVelocitiesHaveScaleAndSentinel : Obligations.TrafficReportVelocitiesHaveScaleAndSentinel := by
  intro m h v hh hv
  have hx : (trHorizontalVelocityRaw m).toNat = h := (be16_high12_toNat m[14] m[15]).trans hh.symm
  have hy : (trVerticalVelocityRaw m).toNat = v := (be16_low12_toNat m[15] m[16]).trans hv.symm
  obtain ⟨hvalid, hkt⟩ := sentinel12_of_toNat_eq hx (horizontalVelocityOfRaw_of_toNat_eq hx)
  exact ⟨hx, hvalid, hkt, hy, sentinel12_of_toNat_eq hy (verticalVelocityOfRaw_of_toNat_eq hy)⟩

/-- Settles O38: the heading is byte 17, and its degrees are 360/256 of it. -/
theorem trafficReportHeadingIsExactDegrees : Obligations.TrafficReportHeadingIsExactDegrees := fun m =>
  ⟨rfl, headingOfRaw_eq m[17]⟩

/-- Settles O39: the length is where the loop of R188 stops from position 8. -/
theorem callsignIsTrimmedOfTrailingNulsAndSpaces : Obligations.CallsignIsTrimmedOfTrailingNulsAndSpaces := by
  intro m k hk
  obtain ⟨hle, hpadding, hlast⟩ := trimLength_spec (trCallsignRaw m) 8 k le_rfl hk.symm
  simp only [trCallsignRaw_getElem] at hpadding hlast
  refine ⟨hle, fun i hi hki => hpadding i hi hki hi, hlast, fun i hi => ?kept⟩
  case kept =>
    rw [hk, ← trCallsignRaw_getElem m i hi]
    exact callsignOf_getElem (trCallsignRaw m) i hi

end Sys2Proof
end


-- ==== Sys2Proof/Proofs/Ownship.lean ====
section
/-! PROOFS. The fields of the Ownship Geometric Altitude record (spec/44_ownship_geometric_altitude.md R222 to R224): what each is,
as arithmetic on the 5 payload bytes. -/

namespace Sys2Proof

open Machine

/-- Bit 7 of a byte is its most significant bit. -/
theorem getLsbD_seven_iff (b : Byte) : b.getLsbD 7 = true ↔ 128 ≤ b.toNat := by
  rw [← BitVec.msb_eq_getLsbD_last b, BitVec.msb_eq_decide, decide_eq_true_iff]

/-- No raw value is a sentinel: every one is a two's-complement multiple of 5 ft (R222). -/
theorem geoAltitudeOfRaw_of_toNat_eq {x : BitVec 16} {g : Nat} (hx : x.toNat = g) :
    geoAltitudeOfRaw x = (if g < 32768 then (g : Int) else (g : Int) - 65536) * 5 := by
  rw [geoAltitudeOfRaw, toInt_of_toNat_eq hx]
  rfl

theorem vfomOfRaw_of_toNat_eq {x : BitVec 15} {v : Nat} (hx : x.toNat = v) : vfomOfRaw x = v := by
  rw [vfomOfRaw, hx, vfomLsbM, Nat.mul_one]

theorem hasValidVfomOf_iff_of_toNat_eq {x : BitVec 15} {v : Nat} (hx : x.toNat = v) :
    hasValidVfomOf x = true ↔ v ≠ 0x7FFF :=
  hx ▸ ne_sentinel15_iff x

/-- Settles O41: the altitude is a 16-bit field, the figure of merit a 15-bit field with a sentinel, and the warning the one bit
above it. -/
theorem ownshipFieldsFollowTheirLayout : Obligations.OwnshipFieldsFollowTheirLayout := by
  intro m g v hg hv
  have hx : (ogaGeoAltitudeRaw m).toNat = g := (be16_toNat m[1] m[2]).trans hg.symm
  have hy : (ogaVfomRaw m).toNat = v := (be16_low15_toNat m[3] m[4]).trans hv.symm
  have hvalid : hasValidVfomOf (ogaVfomRaw m) = true ↔ v ≠ 0x7FFF := hasValidVfomOf_iff_of_toNat_eq hy
  exact ⟨hx, geoAltitudeOfRaw_of_toNat_eq hx, getLsbD_seven_iff m[3], hy, hvalid,
    if_congr hvalid (vfomOfRaw_of_toNat_eq hy) rfl⟩

end Sys2Proof
end


-- ==== Sys2Proof/Proofs/StreamProcessor.lean ====
section
/-! PROOFS. The two control transactions of the stream processor (spec/45_stream_processor.md R243, R244): their next states, their
acceptance, and the mode changes that only they make. -/

namespace Sys2Proof

open Machine

theorem exec_reset (s : State) : exec .reset s = .next (s.startFrame.setMode .idle) := rfl

/-! ### A step without an event -/

/-- An answer that adds no event is accepted whether or not the host would take one (R305). -/
theorem settle_of_events_eq (takes : Bool) {s t : State} (h : t.events = s.events) :
    settle takes s (.next t) = .next (t.respond true) := by
  simp [settle, h]

/-- RESET presented in any state is accepted; the block is then in IDLE with a cleared frame (R244). -/
theorem step_reset {s : State} {takes : Bool} {rest : List Offer} (hin : s.input = ⟨.reset, takes⟩ :: rest) :
    step s = .next (((s.consume rest).startFrame.setMode .idle).respond true) := by
  have hquiet : ((s.consume rest).startFrame.setMode .idle).events = (s.consume rest).events := rfl
  rw [step_cons s _ rest hin, transactionInstr, exec_reset, settle_of_events_eq takes hquiet]

/-! ### The way into TERMINATED -/

/-- Only SHUTDOWN enters TERMINATED (R243). -/
theorem step_enters_terminated {s s' : State} (h : step s = .next s') (hm : s.mode ≠ .terminated)
    (hm' : s'.mode = .terminated) : ∃ o rest, s.input = o :: rest ∧ o.tx = .shutdown := by
  rcases step_mode_cases h with hsame | ⟨o, rest, hin, ⟨-, hidle⟩ | ⟨htx, -⟩ | ⟨-, -, hframing⟩⟩
  · exact absurd (hsame.symm.trans hm') hm
  · exact absurd (hidle.symm.trans hm') (by decide)
  · exact ⟨o, rest, hin, htx⟩
  · exact absurd (hframing.symm.trans hm') (by decide)

/-! ### The obligations -/

/-- Settles O16: the row's whole next state, the acceptance of a presented RESET, and the one way out of TERMINATED. -/
theorem resetCompletesAndAloneLeavesTerminated : Obligations.ResetCompletesAndAloneLeavesTerminated :=
  ⟨fun s => exec_reset s, fun _ _ _ hin => ⟨_, step_reset hin, rfl, rfl, rfl⟩,
    fun _ _ h hm hm' => step_leaves_terminated h hm hm'⟩

/-- Settles O17: the row's whole next state, SHUTDOWN repeated, and the one way into TERMINATED. -/
theorem shutdownCompletesAndAloneTerminates : Obligations.ShutdownCompletesAndAloneTerminates :=
  ⟨fun s => exec_shutdown s, fun _ hs hm => exec_shutdown_of_terminated hs hm,
    fun _ _ h hm hm' => step_enters_terminated h hm hm'⟩

end Sys2Proof
end


-- ==== Sys2Proof/Proofs/Exceptions.lean ====
section
/-! PROOFS. The errors a step reports (spec/60_exceptions.md R271): a step's event is `FrameEnd`'s, and `FrameEnd` reports one of five
descriptors. -/

namespace Sys2Proof

open Machine

/-! ### A step's event -/

theorem emit_inj {s : State} {ev ev' : Event} (h : s.emit ev = s.emit ev') : ev = ev' := by
  simpa using congrArg State.events h

/-- The only transaction that emits is a closing flag, and its event is what `FrameEnd` emits on the registers the step began with
(R240, R242). -/
theorem frameEnd_eq_emit_of_step {s s' : State} {ev : Event} (h : step s = .next s') (hev : s'.events = s.events ++ [ev]) :
    s.cnt ≠ 0 ∧ frameEnd s = s.emit ev := by
  obtain ⟨-, rfl⟩ | ⟨o, rest, -, ⟨t, hexec, rfl⟩ | ⟨b, -, rfl⟩⟩ := step_next_cases h
  case inl => simp at hev
  case inr.inr => simp at hev
  case inr.inl =>
    obtain ⟨-, -, -, evs, -, hevs, hemits⟩ := exec_hostSide hexec
    obtain ⟨htr, hoga, hunknown⟩ := transactionInstr_ne_messageRow s o.tx
    have hone : evs = [ev] := List.append_cancel_left (hevs.symm.trans hev)
    obtain ⟨hrow, hcnt⟩ | hrow | hrow | ⟨id, hrow⟩ := hemits (by simp [hone])
    case inr.inl => exact absurd hrow htr
    case inr.inr.inl => exact absurd hrow hoga
    case inr.inr.inr => exact absurd hrow (hunknown id)
    case inl =>
      rw [hrow] at hexec
      cases hexec
      obtain ⟨h0, -⟩ | ⟨-, ev', hframe⟩ := frameEnd_cases s
      case inl => exact absurd h0 hcnt
      have hlast : ev' = ev := by simpa [frameEnd_consume, hframe] using hev
      exact ⟨hcnt, hlast ▸ hframe⟩

/-! ### The errors of `DISPATCH` and of `FrameEnd` -/

section
variable {s : State} {d : ErrorDescriptor}

/-- The errors `DISPATCH` reports (R273, R274). -/
theorem dispatch_error_cases (h2 : 2 ≤ s.cnt) (h : dispatch s = s.emit (.error d)) :
    d = unknownMessageError s.buf[0] ∨
    (d = truncatedError s.buf[0] ∧ (s.buf[0] = 0x14 ∨ s.buf[0] = 0x0B)) ∨
    (d = emptyPayloadError ∧ s.cnt = 2) := by
  rw [dispatch_eq_of_two_le_cnt h2] at h
  have hd := emit_inj h
  split_ifs at hd with hempty htr hshort hoga hshort <;> cases hd
  · exact .inr (.inr ⟨rfl, hempty⟩)
  · exact .inr (.inl ⟨by rw [htr], .inl htr⟩)
  · exact .inr (.inl ⟨by rw [hoga], .inr hoga⟩)
  · exact .inl rfl

/-- The errors `FrameEnd` reports: `VALIDATE`'s two, and those of `DISPATCH` (R272). -/
theorem frameEnd_error_cases (h0 : s.cnt ≠ 0) (h : frameEnd s = s.emit (.error d)) :
    d = shortFrameError ∨
    (d = mismatchError s.rxCrc s.crc ∧ s.rxCrc ≠ s.crc) ∨
    d = unknownMessageError s.buf[0] ∨
    (d = truncatedError s.buf[0] ∧ (s.buf[0] = 0x14 ∨ s.buf[0] = 0x0B)) ∨
    (d = emptyPayloadError ∧ s.cnt = 2) := by
  obtain ⟨-, hv⟩ | ⟨-, hne, hv⟩ | ⟨h1, -, hv⟩ := validate_cases s
  case inl =>
    rw [frameEnd_of_invalid h0 hv] at h
    cases emit_inj h
    exact .inl rfl
  case inr.inl =>
    rw [frameEnd_of_invalid h0 hv] at h
    cases emit_inj h
    exact .inr (.inl ⟨rfl, hne⟩)
  case inr.inr =>
    rw [frameEnd_of_valid h0 hv] at h
    exact .inr (.inr (dispatch_error_cases (by omega) h))

end

/-- Settles O30: the fields of each of `FrameEnd`'s five descriptors. -/
theorem everyErrorDescriptorHasItsKindsFields : Obligations.EveryErrorDescriptorHasItsKindsFields := by
  intro s s' d h hev
  obtain ⟨h0, hframe⟩ := frameEnd_eq_emit_of_step h hev
  obtain rfl | ⟨rfl, hne⟩ | rfl | ⟨rfl, hid⟩ | ⟨rfl, h2⟩ := frameEnd_error_cases h0 hframe
  case inl => exact .inl ⟨rfl, rfl, rfl, .inr ⟨rfl, rfl, rfl, rfl⟩⟩
  case inr.inl => exact .inl ⟨rfl, rfl, rfl, .inl ⟨rfl, rfl, rxCrc_eq_append s, rfl, hne⟩⟩
  case inr.inr.inl => exact .inr (.inl ⟨rfl, rfl, rfl, rfl, rfl, rfl, rfl⟩)
  case inr.inr.inr.inl => exact .inr (.inr ⟨rfl, rfl, rfl, rfl, rfl, .inl ⟨rfl, rfl, hid⟩⟩)
  case inr.inr.inr.inr => exact .inr (.inr ⟨rfl, rfl, rfl, rfl, rfl, .inr ⟨rfl, rfl, h2⟩⟩)

end Sys2Proof
end


-- ==== Sys2Proof/Proofs/ResetAndHazards.lean ====
section
/-! PROOFS. The reset values and the values no rule reads (spec/70_reset_and_hazards.md R300). A row reads an entry of `buf` only
where `cnt` is past it, `t_new` only from one content byte on and `t_old` only from two on, so that two blocks which differ in
nothing else run every row alike. -/

namespace Sys2Proof

open Machine

/-- A pushed byte is counted, unless the counter is saturated, and then it stands past every stored index (R23, R24). -/
theorem cntAfterPush_cases {s : State} (hw : 5 ≤ s.cntW) :
    (s.cntAfterPush = s.cnt ∧ 31 ≤ s.cnt) ∨ s.cntAfterPush = s.cnt + 1 := by
  unfold State.cntAfterPush
  split_ifs with hsat
  · exact .inl ⟨hsat.symm, hsat ▸ cntMax_ge s hw⟩
  · exact .inr rfl

section
variable {s t : State} (h : SameButStale s t)
include h

/-! ### What the two blocks share -/

theorem SameButStale.mode_eq : t.mode = s.mode := (congrArg State.mode h.rest :)

theorem SameButStale.esc_eq : t.esc = s.esc := (congrArg State.esc h.rest :)

theorem SameButStale.cnt_eq : t.cnt = s.cnt := (congrArg State.cnt h.rest :)

theorem SameButStale.crc_eq : t.crc = s.crc := (congrArg State.crc h.rest :)

theorem SameButStale.cntW_eq : t.cntW = s.cntW := (congrArg State.cntW h.rest :)

theorem SameButStale.input_eq : t.input = s.input := (congrArg State.input h.rest :)

theorem SameButStale.events_eq : t.events = s.events := (congrArg State.events h.rest :)

theorem SameButStale.responses_eq : t.responses = s.responses := (congrArg State.responses h.rest :)

theorem SameButStale.payloadLength_eq : t.payloadLength = s.payloadLength := (congrArg State.payloadLength h.rest :)

/-- A presented transaction is the same row for both: the decoder reads `mode` and `esc` only (R73). -/
theorem SameButStale.transactionInstr_eq (tx : Transaction) : transactionInstr t tx = transactionInstr s tx := by
  cases tx with
  | byte b => simp only [transactionInstr, byteInstr, h.mode_eq, h.esc_eq]
  | shutdown | reset => rfl

/-! ### What they share once there is enough content -/

theorem SameButStale.buf_eq (h28 : 28 ≤ s.cnt) : t.buf = s.buf :=
  Vector.ext fun i hi => h.buf i hi (by omega)

theorem SameButStale.messageId_eq (h1 : 1 ≤ s.cnt) : t.messageId = s.messageId := h.buf 0 (by omega) h1

theorem SameButStale.ogaSlice_eq (h5 : 5 ≤ s.cnt) : t.ogaSlice = s.ogaSlice := by
  have hbuf : ∀ i (_ : i < 5), t.buf[i] = s.buf[i] := fun i hi => h.buf i (by omega) (by omega)
  simp only [State.ogaSlice, hbuf, Nat.reduceLT]

theorem SameButStale.rxCrc_eq (h2 : 2 ≤ s.cnt) : t.rxCrc = s.rxCrc := by
  rw [State.rxCrc, State.rxCrc, h.tOld h2, h.tNew (by omega)]

/-- `VALIDATE` compares check values only where both bytes of the received one have arrived (R134, R135). -/
theorem SameButStale.validate_eq (h0 : s.cnt ≠ 0) : validate t = validate s := by
  rw [validate, validate, h.cnt_eq, h.crc_eq]
  by_cases h1 : s.cnt = 1
  · rw [if_pos h1, if_pos h1]
  · rw [h.rxCrc_eq (by omega)]

/-! ### The operations keep the relation -/

theorem SameButStale.setMode (m : Mode) : SameButStale (s.setMode m) (t.setMode m) :=
  ⟨h.width, h.buf, h.tNew, h.tOld, congrArg (State.setMode m) h.rest⟩

theorem SameButStale.setEsc (e : Bool) : SameButStale (s.setEsc e) (t.setEsc e) :=
  ⟨h.width, h.buf, h.tNew, h.tOld, congrArg (State.setEsc e) h.rest⟩

theorem SameButStale.emit (ev : Event) : SameButStale (s.emit ev) (t.emit ev) :=
  ⟨h.width, h.buf, h.tNew, h.tOld, congrArg (State.emit ev) h.rest⟩

theorem SameButStale.consume (rest : List Offer) : SameButStale (s.consume rest) (t.consume rest) :=
  ⟨h.width, h.buf, h.tNew, h.tOld, congrArg (State.consume rest) h.rest⟩

theorem SameButStale.respond (accepted : Bool) : SameButStale (s.respond accepted) (t.respond accepted) :=
  ⟨h.width, h.buf, h.tNew, h.tOld, congrArg (State.respond accepted) h.rest⟩

theorem SameButStale.startFrame : SameButStale s.startFrame t.startFrame :=
  ⟨h.width, fun _ _ _ => rfl, fun _ => rfl, fun _ => rfl, (congrArg State.startFrame h.rest :)⟩

theorem SameButStale.cntAfterPush_eq : t.cntAfterPush = s.cntAfterPush := (congrArg State.cntAfterPush h.rest :)

/-- The byte that leaves the hold-back is read only where it is one (R102). -/
theorem SameButStale.crcAfterPush_eq : t.crcAfterPush = s.crcAfterPush := by
  rw [State.crcAfterPush, State.crcAfterPush, h.cnt_eq, h.crc_eq]
  split_ifs with h2
  · rw [h.tOld h2]
  · rfl

/-- A pushed byte lands where both counters stand, so one more entry of `buf`, and the hold-back's next byte, agree (R102). -/
theorem SameButStale.pushByte (x : Byte) : SameButStale (s.pushByte x) (t.pushByte x) := by
  have hcnt := cntAfterPush_cases h.width
  constructor
  case width => exact h.width
  case buf =>
    intro i hi hlt
    rw [State.pushByte_cnt] at hlt
    simp only [State.pushByte_buf, bufAfterPush_getElem _ x i hi, h.cnt_eq]
    split_ifs with heq
    · rfl
    · exact h.buf i hi (by omega)
  case tNew => exact fun _ => rfl
  case tOld =>
    intro h2
    rw [State.pushByte_cnt] at h2
    exact h.tNew (by omega)
  case rest =>
    simp only [State.pushByte, h.crcAfterPush_eq, h.cntAfterPush_eq, h.mode_eq, h.esc_eq, h.cntW_eq, h.input_eq, h.events_eq,
      h.responses_eq]

/-! ### The closing flag -/

/-- The record is decoded only from a full frame store (R153). -/
theorem SameButStale.dispatchTr : SameButStale (dispatchTr s) (dispatchTr t) := by
  rw [dispatchTr_eq, dispatchTr_eq, h.payloadLength_eq]
  split_ifs with hp
  · exact h.emit _
  · rw [State.payloadLength] at hp
    rw [h.buf_eq (by omega)]
    exact h.emit _

/-- The record is decoded only from five stored bytes (R154). -/
theorem SameButStale.dispatchOga : SameButStale (dispatchOga s) (dispatchOga t) := by
  rw [dispatchOga_eq, dispatchOga_eq, h.payloadLength_eq]
  split_ifs with hp
  · exact h.emit _
  · rw [State.payloadLength] at hp
    rw [h.ogaSlice_eq (by omega)]
    exact h.emit _

/-- The ID is read only from a payload that has one (R151, R152). -/
theorem SameButStale.dispatch : SameButStale (dispatch s) (dispatch t) := by
  rw [Machine.dispatch, Machine.dispatch, h.payloadLength_eq]
  by_cases hp : s.payloadLength = 0
  case pos =>
    rw [if_pos hp, if_pos hp]
    exact h.emit _
  have hcnt : s.payloadLength = s.cnt - 2 := rfl
  rw [if_neg hp, if_neg hp, h.messageId_eq (by omega)]
  split_ifs
  · exact h.dispatchTr
  · exact h.dispatchOga
  · exact h.emit _

theorem SameButStale.frameEnd : SameButStale (frameEnd s) (frameEnd t) := by
  by_cases h0 : s.cnt = 0
  case pos =>
    rw [frameEnd_of_empty h0, frameEnd_of_empty (h.cnt_eq.trans h0)]
    exact h
  have h0' : t.cnt ≠ 0 := fun ht => h0 (h.cnt_eq.symm.trans ht)
  have hv' := h.validate_eq h0
  cases hv : validate s with
  | some d =>
    rw [frameEnd_of_invalid h0 hv, frameEnd_of_invalid h0' (hv'.trans hv)]
    exact h.emit _
  | none =>
    rw [frameEnd_of_valid h0 hv, frameEnd_of_valid h0' (hv'.trans hv)]
    exact h.dispatch

/-! ### Every row, and the step -/

/-- A row that completes for one block completes for the other, and keeps the relation. -/
theorem SameButStale.exec_next {i : Instr} {s' : State} (hexec : exec i s = .next s') :
    ∃ t', exec i t = .next t' ∧ SameButStale s' t' := by
  cases i with
  | terminatedByte b => cases hexec
  | huntDiscard b => cases hexec; exact ⟨t, rfl, h⟩
  | huntFlag | shutdown | reset => cases hexec; exact ⟨_, rfl, h.startFrame.setMode _⟩
  | frameEnd => cases hexec; exact ⟨_, rfl, h.frameEnd.startFrame⟩
  | escape => cases hexec; exact ⟨_, rfl, h.setEsc true⟩
  | data b => cases hexec; exact ⟨_, rfl, h.pushByte b⟩
  | escapedData b => cases hexec; exact ⟨_, rfl, (h.setEsc false).pushByte _⟩
  | dispatchTr => cases hexec; exact ⟨_, rfl, h.dispatchTr⟩
  | dispatchOga => cases hexec; exact ⟨_, rfl, h.dispatchOga⟩
  | dispatchUnknown id => cases hexec; exact ⟨_, rfl, h.emit _⟩

/-- The host's side of a step sees the events only, which are the same (R305). -/
theorem SameButStale.settle_next (takes : Bool) {s' t' : State} (h' : SameButStale s' t') :
    (∃ u v, settle takes s (.next s') = .next u ∧ settle takes t (.next t') = .next v ∧ SameButStale u v) ∨
    ∃ f, settle takes s (.next s') = .fault f ∧ settle takes t (.next t') = .fault f := by
  simp only [settle, h.events_eq, h'.events_eq]
  split_ifs
  · exact .inr ⟨_, rfl, rfl⟩
  · exact .inl ⟨_, _, rfl, rfl, h'.respond true⟩

/-- Both blocks make the same step: to states that differ in stale values only, or to the same fault. -/
theorem SameButStale.step_cases :
    (∃ s' t', step s = .next s' ∧ step t = .next t' ∧ SameButStale s' t') ∨
    ∃ f, step s = .fault f ∧ step t = .fault f := by
  cases hin : s.input with
  | nil => exact .inl ⟨s, t, step_nil s hin, step_nil t (h.input_eq.trans hin), h⟩
  | cons o rest =>
    rw [step_cons s o rest hin, step_cons t o rest (h.input_eq.trans hin), h.transactionInstr_eq]
    have hc := h.consume rest
    obtain ⟨b, hi, -⟩ | ⟨s', hexec⟩ := exec_cases (transactionInstr s o.tx) (s.consume rest)
    case inl =>
      rw [hi, exec_terminatedByte, exec_terminatedByte]
      exact .inl ⟨_, _, rfl, rfl, hc.respond false⟩
    case inr =>
      obtain ⟨t', hexec', h'⟩ := hc.exec_next hexec
      rw [hexec, hexec']
      exact hc.settle_next o.hostTakes h'

end

/-! ### The reset values -/

/-- A cleared frame store is 0 at every index. -/
theorem Cleared.buf_getElem {s : State} (h : Cleared s) (i : Nat) (hi : i < 28) : s.buf[i] = 0x00 := by
  simp only [h.buf, Vector.getElem_replicate]

theorem cleared_reset : Cleared State.reset := ⟨rfl, rfl, rfl, rfl, rfl, rfl⟩

/-- Settles O15: the values at power-up, those RESET writes, and a step from two blocks that differ in stale values only. -/
theorem everyRegisterHoldsItsResetValue : Obligations.EveryRegisterHoldsItsResetValue := by
  refine ⟨⟨rfl, rfl, rfl, rfl, rfl, rfl, cleared_reset.buf_getElem⟩, fun s => ?afterReset, fun s t h => ?sameStep⟩
  case afterReset =>
    exact ⟨_, exec_reset s, rfl, rfl, rfl, rfl, rfl, rfl, (cleared_startFrame s).buf_getElem⟩
  case sameStep =>
    obtain ⟨s', t', hs, ht, h'⟩ | ⟨f, hs, ht⟩ := h.step_cases
    case inl =>
      rw [hs]
      refine ⟨fun u hu => ?_, nofun⟩
      cases hu
      exact ⟨t', ht, h'⟩
    case inr =>
      rw [hs]
      refine ⟨nofun, fun f' hf => ?_⟩
      cases hf
      exact ht

end Sys2Proof
end


-- ==== Sys2Proof/Proofs/Other.lean ====
section
/-! PROOFS. What holds of every instruction, step and stream: decode and encode agree (spec/30_encoding.md), what a step does to the
host's side and to the block's invariant (spec/45_stream_processor.md section 3, spec/10_state.md R29), the CRC's laws
(spec/41_crc_validator.md), the events of a whole content and the laws of fed streams (spec/40_framer.md section 3). -/

namespace Sys2Proof

open Machine

/-! ## Encoding (spec/30_encoding.md sections 2 and 3) -/

/-! ### Port words and their bytes -/

theorem wordBytes_append (hi lo : Byte) : wordBytes (hi ++ lo) = [lo, hi] := by
  have hlo : (hi ++ lo).extractLsb' 0 8 = lo := BitVec.extractLsb'_append_eq_right
  have hhi : (hi ++ lo).extractLsb' 8 8 = hi := BitVec.extractLsb'_append_eq_left
  rw [wordBytes, hlo, hhi]

theorem decode_wordBytes (w : BitVec 16) : decode (wordBytes w) = decodeWord w :=
  congrArg decodeWord (crc_bytes_append w)

theorem wordBytes_byteWord (m : BitVec 2) (e : Bool) (b : Byte) :
    wordBytes (byteWord m e b) = [b, 0#5 ++ m ++ BitVec.ofBool e] :=
  wordBytes_append _ b

theorem extractLsb'_one_eq_ofBool {n : Nat} (x : BitVec n) (i : Nat) : x.extractLsb' i 1 = BitVec.ofBool (x.getLsbD i) := by
  ext j hj
  obtain rfl : j = 0 := by omega
  simp

theorem byteWord_eq_append (m : BitVec 2) (e : Bool) (b : Byte) :
    byteWord m e b = 0#5 ++ (m ++ BitVec.ofBool e ++ b) := by
  rw [byteWord, BitVec.append_assoc, BitVec.append_assoc, BitVec.append_assoc]
  rfl

/-- The fields of a decode word, put together again (R74). -/
theorem fields_append {n : Nat} (x : BitVec n) :
    x.extractLsb' 9 2 ++ BitVec.ofBool (x.getLsbD 8) ++ x.extractLsb' 0 8 = x.extractLsb' 0 11 := by
  have hhigh : x.extractLsb' 9 2 ++ x.extractLsb' 8 1 = x.extractLsb' 8 3 :=
    BitVec.extractLsb'_append_extractLsb'_eq_extractLsb' rfl
  rw [← extractLsb'_one_eq_ofBool, hhigh]
  exact BitVec.extractLsb'_append_extractLsb'_eq_extractLsb' rfl

/-- A word without strobe bits is the decode word of its own fields (R74). -/
theorem eq_byteWord_of_no_strobe {w : BitVec 16} (h : w.extractLsb' 11 5 = 0) :
    w = byteWord (w.extractLsb' 9 2) (w.getLsbD 8) (w.extractLsb' 0 8) := by
  have hsplit : w.extractLsb' 11 5 ++ w.extractLsb' 0 11 = w.extractLsb' 0 16 :=
    BitVec.extractLsb'_append_extractLsb'_eq_extractLsb' rfl
  rw [h, BitVec.extractLsb'_eq_self] at hsplit
  rw [byteWord_eq_append, fields_append]
  exact hsplit.symm

theorem decodeWord_byteWord (m : BitVec 2) (e : Bool) (b : Byte) : decodeWord (byteWord m e b) = classify m e b := by
  have hstrobe : (byteWord m e b).extractLsb' 11 5 = 0 := by
    rw [byteWord_eq_append]
    exact BitVec.extractLsb'_append_eq_left
  have hmode : (byteWord m e b).extractLsb' 9 2 = m := by
    rw [byteWord, BitVec.extractLsb'_append_eq_of_le (by decide), BitVec.extractLsb'_append_eq_of_le (by decide)]
    exact BitVec.extractLsb'_append_eq_right
  have hesc : (byteWord m e b).getLsbD 8 = e := by
    rw [byteWord, BitVec.getLsbD_append, BitVec.getLsbD_append]
    simp
  have hbyte : (byteWord m e b).extractLsb' 0 8 = b := BitVec.extractLsb'_append_eq_right
  rw [decodeWord, if_pos hstrobe, hmode, hesc, hbyte]

theorem decode_byteWord (m : BitVec 2) (e : Bool) (b : Byte) : decode (wordBytes (byteWord m e b)) = classify m e b := by
  rw [decode_wordBytes, decodeWord_byteWord]

/-- The words the decoder reads: a decode word, or a strobe's. -/
theorem decodeWord_cases {w : BitVec 16} {i : Instr} (h : decodeWord w = .ok i) :
    (∃ m e b, w = byteWord m e b) ∨ (w = shutdownWord ∧ i = .shutdown) ∨ (w = resetWord ∧ i = .reset) := by
  unfold decodeWord at h
  split_ifs at h with hbits hshut hreset
  · exact .inl ⟨_, _, _, eq_byteWord_of_no_strobe hbits⟩
  · exact .inr (.inl ⟨hshut, (Except.ok.inj h).symm⟩)
  · exact .inr (.inr ⟨hreset, (Except.ok.inj h).symm⟩)

theorem decodeWord_reservedBits {w : BitVec 16} (hbits : w.extractLsb' 11 5 ≠ 0) (hshut : w ≠ shutdownWord)
    (hreset : w ≠ resetWord) : decodeWord w = .error .reservedBits := by
  rw [decodeWord, if_neg hbits, if_neg hshut, if_neg hreset]

/-! ### The rows' words -/

theorem byteWord_eq_or (m : BitVec 2) (e : Bool) (b : Byte) :
    byteWord m e b = byteWord m e 0#8 ||| b.setWidth 16 := by
  rw [BitVec.setWidth_eq_append (show 8 ≤ 16 by decide), byteWord, byteWord]
  exact (BitVec.or_append.trans (by rw [BitVec.or_zero, BitVec.zero_or])).symm

theorem encode_huntFlag : encode .huntFlag = wordBytes (byteWord 0b00 false 0x7E) := rfl

theorem encode_huntDiscard (b : Byte) : encode (.huntDiscard b) = wordBytes (byteWord 0b00 false b) :=
  congrArg wordBytes (byteWord_eq_or 0b00 false b).symm

theorem encode_frameEnd : encode .frameEnd = wordBytes (byteWord 0b01 false 0x7E) := rfl

theorem encode_escape : encode .escape = wordBytes (byteWord 0b01 false 0x7D) := rfl

theorem encode_data (b : Byte) : encode (.data b) = wordBytes (byteWord 0b01 false b) :=
  congrArg wordBytes (byteWord_eq_or 0b01 false b).symm

theorem encode_escapedData (b : Byte) : encode (.escapedData b) = wordBytes (byteWord 0b01 true b) :=
  congrArg wordBytes (byteWord_eq_or 0b01 true b).symm

theorem encode_terminatedByte (b : Byte) : encode (.terminatedByte b) = wordBytes (byteWord 0b10 false b) :=
  congrArg wordBytes (byteWord_eq_or 0b10 false b).symm

theorem encode_messageIdRow (id : Byte) : encode (messageIdRow id) = [id] := by
  unfold messageIdRow
  split_ifs with htr hoga
  · rw [htr]; rfl
  · rw [hoga]; rfl
  · rfl

theorem messageIdRow_wellFormed (id : Byte) : (messageIdRow id).wellFormed = true := by
  unfold messageIdRow
  split_ifs with htr hoga
  · rfl
  · rfl
  · exact Bool.and_eq_true_iff.mpr ⟨bne_iff_ne.mpr htr, bne_iff_ne.mpr hoga⟩

theorem modeBits_cases : ∀ m : BitVec 2, m = 0b00 ∨ m = 0b01 ∨ m = 0b10 ∨ m = 0b11 := by decide

/-- A row encoded with a clear `esc` bit is read from its word with either value of the bit (R74). -/
theorem encode_eq_or_escBit_set {i : Instr} {m : BitVec 2} {b : Byte} (h : encode i = wordBytes (byteWord m false b))
    (e : Bool) :
    encode i = wordBytes (byteWord m e b) ∨
    ∃ lo hi : Byte, wordBytes (byteWord m e b) = [lo, hi] ∧ encode i = [lo, hi ^^^ 0x01] := by
  cases e with
  | false => exact .inl h
  | true =>
    have hbit : ∀ m : BitVec 2, (0#5 ++ m ++ BitVec.ofBool true) ^^^ 0x01 = 0#5 ++ m ++ BitVec.ofBool false := by decide
    exact .inr ⟨b, _, wordBytes_byteWord m true b, by rw [h, wordBytes_byteWord, hbit]⟩

/-- A decode word read as an instruction: its row, and the row's own word (R73, R74). -/
theorem decode_byteWord_reencodes {m : BitVec 2} {e : Bool} {b : Byte} {i : Instr}
    (h : decode (wordBytes (byteWord m e b)) = .ok i) :
    i.wellFormed = true ∧
    (encode i = wordBytes (byteWord m e b) ∨
      ((i = .huntFlag ∨ (∃ b, i = .huntDiscard b) ∨ i = .frameEnd ∨ ∃ b, i = .terminatedByte b) ∧
        ∃ lo hi : Byte, wordBytes (byteWord m e b) = [lo, hi] ∧ encode i = [lo, hi ^^^ 0x01])) := by
  obtain rfl | rfl | rfl | rfl := modeBits_cases m
  case inr.inr.inr => rw [decode_byteWord] at h; cases h
  case inl =>
    rw [decode_byteWord_idle] at h
    split_ifs at h with hflag <;> cases h
    · subst hflag
      exact ⟨rfl, (encode_eq_or_escBit_set encode_huntFlag e).imp_right (⟨.inl rfl, ·⟩)⟩
    · exact ⟨bne_iff_ne.mpr hflag,
        (encode_eq_or_escBit_set (encode_huntDiscard b) e).imp_right (⟨.inr (.inl ⟨b, rfl⟩), ·⟩)⟩
  case inr.inl =>
    rw [decode_byteWord_framing] at h
    split_ifs at h with hflag hesc hescape <;> cases h
    · subst hflag
      exact ⟨rfl, (encode_eq_or_escBit_set encode_frameEnd e).imp_right (⟨.inr (.inr (.inl rfl)), ·⟩)⟩
    · subst hesc
      exact ⟨bne_iff_ne.mpr hflag, .inl (encode_escapedData b)⟩
    · obtain rfl : e = false := by simpa using hesc
      exact ⟨rfl, .inl (hescape ▸ encode_escape)⟩
    · obtain rfl : e = false := by simpa using hesc
      exact ⟨Bool.and_eq_true_iff.mpr ⟨bne_iff_ne.mpr hflag, bne_iff_ne.mpr hescape⟩, .inl (encode_data b)⟩
  case inr.inr.inl =>
    rw [decode_byteWord_terminated] at h
    cases h
    exact ⟨rfl, (encode_eq_or_escBit_set (encode_terminatedByte b) e).imp_right (⟨.inr (.inr (.inr ⟨b, rfl⟩)), ·⟩)⟩

theorem append_inj_iff {v w : Nat} {x x' : BitVec v} {y y' : BitVec w} : x ++ y = x' ++ y' ↔ x = x' ∧ y = y' := by
  constructor
  · intro h
    have hx := congrArg (BitVec.extractLsb' w v) h
    have hy := congrArg (BitVec.extractLsb' 0 w) h
    rw [BitVec.extractLsb'_append_eq_left, BitVec.extractLsb'_append_eq_left] at hx
    rw [BitVec.extractLsb'_append_eq_right, BitVec.extractLsb'_append_eq_right] at hy
    exact ⟨hx, hy⟩
  · rintro ⟨rfl, rfl⟩
    rfl

/-! ### The match/mask/priority table (R74) -/

section
variable (m : BitVec 2) (e : Bool) (b : Byte) (p : Nat) (row : Byte → Instr)

/-- A row matches a decode word field by field; every mask takes both mode bits (R74). -/
theorem matchesWord_append (pm : BitVec 2) (me pe : Bool) (mb pb : Byte) :
    ByteRow.matchesWord ⟨pm ++ BitVec.ofBool pe ++ pb, 3#2 ++ BitVec.ofBool me ++ mb, p, row⟩
      (m ++ BitVec.ofBool e ++ b) =
      decide ((m = pm ∧ (e && me) = pe) ∧ b &&& mb = pb) := by
  have hmode : m &&& 3#2 = m := BitVec.and_allOnes
  rw [ByteRow.matchesWord, BitVec.and_append, BitVec.and_append, BitVec.ofBool_and_ofBool, hmode, Bool.eq_iff_iff, beq_iff_eq,
    decide_eq_true_iff]
  exact append_inj_iff.trans (and_congr_left' (append_inj_iff.trans (and_congr_right' BitVec.ofBool_eq_iff_eq)))

/-- A row whose mask takes the byte matches that byte only. -/
theorem matchesWord_oneByte (pm : BitVec 2) (me pe : Bool) (pb : Byte) :
    ByteRow.matchesWord ⟨pm ++ BitVec.ofBool pe ++ pb, 3#2 ++ BitVec.ofBool me ++ 0xFF#8, p, row⟩
      (m ++ BitVec.ofBool e ++ b) =
      decide ((m = pm ∧ (e && me) = pe) ∧ b = pb) := by
  have hbyte : b &&& 0xFF#8 = b := BitVec.and_allOnes
  rw [matchesWord_append, hbyte]

/-- A row whose mask leaves the byte out matches every byte. -/
theorem matchesWord_anyByte (pm : BitVec 2) (me pe : Bool) :
    ByteRow.matchesWord ⟨pm ++ BitVec.ofBool pe ++ 0#8, 3#2 ++ BitVec.ofBool me ++ 0#8, p, row⟩
      (m ++ BitVec.ofBool e ++ b) =
      decide (m = pm ∧ (e && me) = pe) := by
  simp [matchesWord_append]

theorem matchesWord_huntFlag : ByteRow.matchesWord ⟨0x07E, 0x6FF, p, row⟩ (m ++ BitVec.ofBool e ++ b) =
    decide ((m = 0b00 ∧ (e && false) = false) ∧ b = 0x7E) := matchesWord_oneByte m e b p row 0b00 false false 0x7E

theorem matchesWord_huntDiscard : ByteRow.matchesWord ⟨0x000, 0x600, p, row⟩ (m ++ BitVec.ofBool e ++ b) =
    decide (m = 0b00 ∧ (e && false) = false) := matchesWord_anyByte m e b p row 0b00 false false

theorem matchesWord_frameEnd : ByteRow.matchesWord ⟨0x27E, 0x6FF, p, row⟩ (m ++ BitVec.ofBool e ++ b) =
    decide ((m = 0b01 ∧ (e && false) = false) ∧ b = 0x7E) := matchesWord_oneByte m e b p row 0b01 false false 0x7E

theorem matchesWord_escape : ByteRow.matchesWord ⟨0x27D, 0x7FF, p, row⟩ (m ++ BitVec.ofBool e ++ b) =
    decide ((m = 0b01 ∧ (e && true) = false) ∧ b = 0x7D) := matchesWord_oneByte m e b p row 0b01 true false 0x7D

theorem matchesWord_data : ByteRow.matchesWord ⟨0x200, 0x700, p, row⟩ (m ++ BitVec.ofBool e ++ b) =
    decide (m = 0b01 ∧ (e && true) = false) := matchesWord_anyByte m e b p row 0b01 true false

theorem matchesWord_escapedData : ByteRow.matchesWord ⟨0x300, 0x700, p, row⟩ (m ++ BitVec.ofBool e ++ b) =
    decide (m = 0b01 ∧ (e && true) = true) := matchesWord_anyByte m e b p row 0b01 true true

theorem matchesWord_terminatedByte : ByteRow.matchesWord ⟨0x400, 0x600, p, row⟩ (m ++ BitVec.ofBool e ++ b) =
    decide (m = 0b10 ∧ (e && false) = false) := matchesWord_anyByte m e b p row 0b10 false false

/-- The rows that match are those of the word's mode, and their priorities put the flag first and the escape byte before any
other (R74). -/
theorem tableDecode_append : tableDecode (m ++ BitVec.ofBool e ++ b) = (classify m e b).toOption := by
  have hbyte : (m ++ BitVec.ofBool e ++ b).extractLsb' 0 8 = b := BitVec.extractLsb'_append_eq_right
  simp only [tableDecode, byteRows, List.foldl_cons, List.foldl_nil, ByteRow.better, matchesWord_huntFlag,
    matchesWord_huntDiscard, matchesWord_frameEnd, matchesWord_escape, matchesWord_data, matchesWord_escapedData,
    matchesWord_terminatedByte, hbyte]
  obtain rfl | rfl | rfl | rfl := modeBits_cases m
  case inl => by_cases hf : b = 0x7E#8 <;> simp [classify, Except.toOption, hf]
  case inr.inl =>
    by_cases hf : b = 0x7E#8
    · cases e <;> simp [classify, Except.toOption, hf]
    · cases e
      · by_cases hx : b = 0x7D#8 <;> simp [classify, Except.toOption, hf, hx]
      · simp [classify, Except.toOption, hf]
  case inr.inr.inl => simp [classify, Except.toOption]
  case inr.inr.inr => simp [classify, Except.toOption]

end

/-! ### The obligations -/

/-- Settles O1: the round trip of each row. -/
theorem decodeOfEncodeIsIdentity : Obligations.DecodeOfEncodeIsIdentity := by
  intro i
  cases i with
  | huntFlag => exact Laws.RoundTrip.huntFlag
  | huntDiscard b => exact Laws.RoundTrip.huntDiscard b
  | frameEnd => exact Laws.RoundTrip.frameEnd
  | escape => exact Laws.RoundTrip.escape
  | data b => exact Laws.RoundTrip.data b
  | escapedData b => exact Laws.RoundTrip.escapedData b
  | terminatedByte b => exact Laws.RoundTrip.terminatedByte b
  | shutdown => exact Laws.RoundTrip.shutdown
  | reset => exact Laws.RoundTrip.reset
  | dispatchTr => exact Laws.RoundTrip.dispatchTr
  | dispatchOga => exact Laws.RoundTrip.dispatchOga
  | dispatchUnknown id => exact Laws.RoundTrip.dispatchUnknown id

/-- Settles O2: one byte is a message ID; two bytes are a decode word or a strobe's word. -/
theorem decodedBytesReencodeUpToDontCareBit : Obligations.DecodedBytesReencodeUpToDontCareBit := by
  intro bs i h
  match bs with
  | [] => cases h
  | _ :: _ :: _ :: _ => cases h
  | [id] =>
    rw [decode_messageId] at h
    cases h
    exact ⟨messageIdRow_wellFormed id, .inl (encode_messageIdRow id)⟩
  | [lo, hi] =>
    rw [← wordBytes_append hi lo] at h ⊢
    obtain ⟨m, e, b, hw⟩ | ⟨hw, rfl⟩ | ⟨hw, rfl⟩ := decodeWord_cases ((decode_wordBytes (hi ++ lo)).symm.trans h)
    case inl =>
      rw [hw] at h ⊢
      exact decode_byteWord_reencodes h
    case inr.inl => exact ⟨rfl, .inl (congrArg wordBytes hw.symm)⟩
    case inr.inr => exact ⟨rfl, .inl (congrArg wordBytes hw.symm)⟩

/-- Settles O3: the reserved mode, the lengths the decoder does not read, and the bits no strobe has alone. -/
theorem reservedWordsAreRejected : Obligations.ReservedWordsAreRejected := by
  refine ⟨decode_byteWord 0b11, rfl, fun _ _ _ _ => rfl, fun w hbits hshut hreset => ?reservedBits⟩
  case reservedBits => rw [decode_wordBytes, decodeWord_reservedBits hbits hshut hreset]

/-- Settles O4: each word is that of a mode, an `esc` bit and a byte, a strobe's, or a message ID. -/
theorem writtenOutWordsDecodeToTheirRows : Obligations.WrittenOutWordsDecodeToTheirRows :=
  ⟨decode_byteWord_idle false 0x7E, decode_byteWord_idle false 0x7D, decode_byteWord_framing false 0x7E,
    decode_byteWord_framing true 0x7E, decode_byteWord_framing false 0x7D, decode_byteWord_framing false 0x41,
    decode_byteWord_framing true 0x7D, decode_byteWord_terminated false 0x7E, decode_wordBytes shutdownWord,
    decode_wordBytes resetWord, decode_messageId 0x14, decode_messageId 0x0B, decode_messageId 0xFF⟩

/-- Settles O5: on the fields of a decode word both decoders give the class of its byte. -/
theorem tableDecodeAgreesOnEveryDecodeWord : Obligations.TableDecodeAgreesOnEveryDecodeWord := by
  intro w
  have hw : w.extractLsb' 9 2 ++ BitVec.ofBool (w.getLsbD 8) ++ w.extractLsb' 0 8 = w :=
    (fields_append w).trans BitVec.extractLsb'_eq_self
  rw [← hw, ← byteWord_eq_append, decode_byteWord, tableDecode_append]

/-! ## The step (spec/45_stream_processor.md section 3) -/

/-! ### The end of a step -/

theorem settle_of_taken {takes : Bool} {s t : State} (h : t.events = s.events ∨ takes = true) :
    settle takes s (.next t) = .next (t.respond true) := by
  obtain h | rfl := h
  · exact settle_of_events_eq takes h
  · simp [settle]

theorem settle_refused (takes : Bool) (s : State) :
    settle takes s (.refused .byteAfterShutdown) = .next (s.respond false) := rfl

/-- An answer that leaves the step stuck: it has a new event, which the host does not take (R305). -/
theorem settle_eq_fault_iff {takes : Bool} {s t : State} :
    settle takes s (.next t) = .fault .eventNotTaken ↔ s.events.length < t.events.length ∧ takes = false := by
  simp [settle]

/-- An instruction only appends to the event stream, so it has a new event wherever the stream changed. -/
theorem exec_events_length_lt_iff {i : Instr} {s t : State} (h : exec i s = .next t) :
    s.events.length < t.events.length ↔ t.events ≠ s.events := by
  obtain ⟨-, -, -, evs, -, hevs, -⟩ := exec_hostSide h
  simp [hevs, List.length_pos_iff]

/-- A presented transaction's bytes decode to its one instruction. -/
theorem transactionInstr_of_decode {s : State} {tx : Transaction} {i : Instr} (h : decode (transactionBytes s tx) = .ok i) :
    transactionInstr s tx = i :=
  Except.ok.inj ((decode_transactionBytes s tx).symm.trans h)

/-- Only a closing flag of a non-empty frame adds an event. -/
theorem frameEnd_of_step_events_ne {s s' : State} (h : step s = .next s') (hev : s'.events ≠ s.events) :
    s.cnt ≠ 0 ∧ ∃ o rest, s.input = o :: rest ∧ transactionInstr s o.tx = .frameEnd := by
  obtain ⟨-, rfl⟩ | ⟨o, rest, hin, ⟨t, hexec, rfl⟩ | ⟨b, -, rfl⟩⟩ := step_next_cases h
  case inl => exact absurd rfl hev
  case inr.inr => exact absurd rfl hev
  case inr.inl =>
    obtain ⟨-, -, -, evs, -, hevs, hemits⟩ := exec_hostSide hexec
    obtain ⟨htr, hoga, hunknown⟩ := transactionInstr_ne_messageRow s o.tx
    have hnew : evs ≠ [] := by
      rintro rfl
      exact hev (hevs.trans (List.append_nil _))
    obtain ⟨hrow, hcnt⟩ | hrow | hrow | ⟨id, hrow⟩ := hemits hnew
    · exact ⟨hcnt, o, rest, hin, hrow⟩
    · exact absurd hrow htr
    · exact absurd hrow hoga
    · exact absurd hrow (hunknown id)

/-- A presented byte whose event the host takes is the byte fed to the block. -/
theorem step_byte_taken {s : State} {b : Byte} {rest : List Offer} (hin : s.input = ⟨.byte b, true⟩ :: rest) :
    step s = .next (byteStep (s.consume rest) b) := by
  have hs : s = offerBytes [b] (s.consume rest) := by
    cases s
    cases hin
    rfl
  conv_lhs => rw [hs]
  exact step_offerBytes_cons b [] (s.consume rest)

/-! ### The obligations -/

/-- Settles O8: the bytes decode to the one instruction, and `settle` has the two answers. -/
theorem stepRunsTheDecodedInstruction : Obligations.StepRunsTheDecodedInstruction := by
  intro s o rest i hin hdec
  obtain rfl := transactionInstr_of_decode hdec
  rw [step_cons s o rest hin]
  refine ⟨fun t hexec htaken => ?accepted, fun hexec => ?refused⟩
  case accepted =>
    rw [show exec _ (s.consume rest) = .next t from hexec]
    exact settle_of_taken (s := s.consume rest) htaken
  case refused =>
    rw [show exec _ (s.consume rest) = .refused .byteAfterShutdown from hexec]
    rfl

/-- Settles O9: the block is stuck in `settle` only, and there exactly at a new event that is not taken. -/
theorem stuckExactlyWhenEventIsNotTaken : Obligations.StuckExactlyWhenEventIsNotTaken := by
  intro s
  constructor
  case mp =>
    intro h
    cases hin : s.input with
    | nil => rw [step_nil s hin] at h; cases h
    | cons o rest =>
      rw [step_cons s o rest hin] at h
      obtain ⟨b, -, hexec⟩ | ⟨t, hexec⟩ := exec_cases (transactionInstr s o.tx) (s.consume rest)
      case inl => rw [hexec, settle_refused] at h; cases h
      case inr =>
        rw [hexec, settle_eq_fault_iff, exec_events_length_lt_iff hexec] at h
        obtain ⟨hev, htakes⟩ := h
        exact ⟨o, rest, _, t, rfl, htakes, decode_transactionBytes s o.tx, hexec, hev⟩
  case mpr =>
    rintro ⟨o, rest, i, t, hin, htakes, hdec, hexec, hev⟩
    obtain rfl := transactionInstr_of_decode hdec
    have hexec' : exec (transactionInstr s o.tx) (s.consume rest) = .next t := hexec
    rw [step_cons s o rest hin, hexec', settle_eq_fault_iff, exec_events_length_lt_iff hexec']
    exact ⟨hev, htakes⟩

/-- Settles O10: a step with nothing presented is the idle step. -/
theorem stepWithNoTransactionHoldsState : Obligations.StepWithNoTransactionHoldsState := step_nil

/-- Settles O11: an accepted transaction does to the host's side what its instruction does, and a refused one only leaves. -/
theorem stepConsumesOneTransactionAndEmitsAtMostOneEvent :
    Obligations.StepConsumesOneTransactionAndEmitsAtMostOneEvent := by
  intro s s' o rest hin h
  obtain ⟨hnil, -⟩ | ⟨o', rest', hin', hcase⟩ := step_next_cases h
  case inl => rw [hin] at hnil; cases hnil
  obtain ⟨rfl, rfl⟩ : o = o' ∧ rest = rest' := List.cons.inj (hin.symm.trans hin')
  obtain ⟨t, hexec, rfl⟩ | ⟨b, -, rfl⟩ := hcase
  case inl =>
    obtain ⟨hinput, hresponses, hcntW, evs, hlen, hevs, -⟩ := exec_hostSide hexec
    exact ⟨hinput, hcntW, ⟨true, congrArg (· ++ [true]) hresponses⟩, evs, hlen, hevs⟩
  case inr => exact ⟨rfl, rfl, ⟨false, rfl⟩, [], by simp, by simp⟩

/-- Settles O12: every instruction answers or refuses a byte, and `settle` stops only where the host does not take. -/
theorem everyStepCompletesUnlessEventIsNotTaken : Obligations.EveryStepCompletesUnlessEventIsNotTaken := by
  intro s
  cases hin : s.input with
  | nil => exact .inl ⟨s, step_nil s hin⟩
  | cons o rest =>
    rw [step_cons s o rest hin]
    obtain ⟨b, -, hexec⟩ | ⟨t, hexec⟩ := exec_cases (transactionInstr s o.tx) (s.consume rest)
    case inl => exact .inl ⟨_, by rw [hexec, settle_refused]⟩
    case inr =>
      rw [hexec]
      by_cases htaken : t.events = s.events ∨ o.hostTakes = true
      · exact .inl ⟨_, settle_of_taken (s := s.consume rest) htaken⟩
      · obtain ⟨hev, htakes⟩ := not_or.mp htaken
        rw [Bool.not_eq_true] at htakes
        exact .inr ⟨settle_eq_fault_iff.mpr ⟨(exec_events_length_lt_iff hexec).mpr hev, htakes⟩, o, rest, rfl, htakes⟩

/-- Settles O13: a step that adds an event runs FRAME_END, which only a flag in FRAMING decodes to. -/
theorem eventsComeOnlyFromClosingFlagsOfNonEmptyFrames : Obligations.EventsComeOnlyFromClosingFlagsOfNonEmptyFrames := by
  intro s s' h hev
  obtain ⟨hcnt, o, rest, hin, hrow⟩ := frameEnd_of_step_events_ne h hev
  obtain ⟨hm, htx⟩ := transactionInstr_eq_frameEnd hrow
  exact ⟨hm, hcnt, o, rest, hin, htx⟩

/-- Settles O14: the host's side of `exec_hostSide`, but for the events. -/
theorem instructionsLeaveTheHostSideAlone : Obligations.InstructionsLeaveTheHostSideAlone := by
  intro i s t hexec
  obtain ⟨hinput, hresponses, hcntW, -⟩ := exec_hostSide hexec
  exact ⟨hinput, hresponses, hcntW⟩

/-- Settles O24: in TERMINATED a byte decodes to TERMINATED_BYTE, which refuses it. -/
theorem refusedByteLeavesEveryRegister : Obligations.RefusedByteLeavesEveryRegister := by
  intro s b takes rest hin hm
  have hrow : transactionInstr s (.byte b) = .terminatedByte b := byteInstr_of_terminated b hm
  rw [step_cons s _ rest hin, hrow, exec_terminatedByte, settle_refused]
  rfl

/-- Settles O50: the step of a taken flag is a fed flag. -/
theorem oneFlagResynchronises : Obligations.OneFlagResynchronises := by
  intro s rest hin hm
  obtain ⟨hmode, hclear, -, -, hresponses, -⟩ := byteStep_flag (s.consume rest) hm
  exact ⟨_, step_byte_taken hin, hmode, hclear, hresponses⟩

/-! ## The invariant (spec/10_state.md R22, R23, R29) -/

theorem Consistent.of_cleared {s : State} (hw : 5 ≤ s.cntW) (h : Cleared s) : Consistent s :=
  ⟨hw, fun _ => ⟨[], h.holdsContent_nil⟩, fun _ => h⟩

theorem Consistent.of_holdsContent {s : State} {F : List Byte} (hw : 5 ≤ s.cntW) (hm : s.mode = .framing)
    (h : HoldsContent s F) : Consistent s :=
  ⟨hw, fun _ => ⟨F, h⟩, fun hne => absurd hm hne⟩

theorem Consistent.consume {s : State} (h : Consistent s) (rest : List Offer) : Consistent (s.consume rest) :=
  h.transfer rfl rfl rfl rfl rfl rfl rfl rfl

theorem Consistent.respond {s : State} (h : Consistent s) (accepted : Bool) : Consistent (s.respond accepted) :=
  h.transfer rfl rfl rfl rfl rfl rfl rfl rfl

theorem consistent_startFrame {s : State} (hw : 5 ≤ s.cntW) (m : Mode) : Consistent (s.startFrame.setMode m) :=
  .of_cleared hw ((cleared_startFrame s).transfer rfl rfl rfl rfl rfl rfl)

/-- A byte's row keeps the block consistent: only FRAMING has rows that change the content, and each appends a byte to it,
clears it, or leaves it (R101, R102). -/
theorem Consistent.exec_byteInstr {s t : State} {b : Byte} (h : Consistent s) (hexec : exec (byteInstr s b) s = .next t) :
    Consistent t := by
  cases hm : s.mode with
  | idle =>
    rw [byteInstr_of_idle b hm] at hexec
    split_ifs at hexec <;> cases hexec
    case pos => exact consistent_startFrame h.width _
    case neg => exact h
  | framing =>
    obtain ⟨F, hF⟩ := h.framing hm
    rw [byteInstr_of_framing b hm] at hexec
    split_ifs at hexec <;> cases hexec
    · exact .of_cleared ((frameEnd_cntW s).symm ▸ h.width) (cleared_startFrame (frameEnd s))
    · have hF' : HoldsContent (s.setEsc false) F := hF.transfer rfl rfl rfl rfl rfl rfl
      exact .of_holdsContent h.width hm (HoldsContent.pushByte (s := s.setEsc false) h.width hF' _)
    · exact .of_holdsContent h.width hm (hF.transfer rfl rfl rfl rfl rfl rfl)
    · exact .of_holdsContent h.width hm (hF.pushByte h.width b)
  | terminated =>
    rw [byteInstr_of_terminated b hm] at hexec
    cases hexec

theorem Consistent.exec_transactionInstr {s t : State} {tx : Transaction} (h : Consistent s)
    (hexec : exec (transactionInstr s tx) s = .next t) : Consistent t := by
  cases tx with
  | byte b => exact h.exec_byteInstr hexec
  | shutdown | reset => cases hexec; exact consistent_startFrame h.width _

/-- Settles O46: a cleared block of the reference width. -/
theorem resetStateIsConsistent : Obligations.ResetStateIsConsistent := .of_cleared (by decide) cleared_reset

/-- Settles O47: the row of the presented transaction keeps the block consistent, and the host's side does not matter. -/
theorem stepKeepsTheBlockConsistent : Obligations.StepKeepsTheBlockConsistent := by
  intro s s' hs h
  obtain ⟨-, rfl⟩ | ⟨o, rest, -, ⟨t, hexec, rfl⟩ | ⟨b, -, rfl⟩⟩ := step_next_cases h
  case inl => exact hs
  case inr.inl => exact ((hs.consume rest).exec_transactionInstr (tx := o.tx) hexec).respond true
  case inr.inr => exact (hs.consume rest).respond false

/-! ## The framer's two content rows (spec/40_framer.md R102, R107, R108) -/

/-- Settles O21: `PushByte` on the old registers; `bufAfterPush_getElem` says what it stores. -/
theorem dataCompletesAndAppendsTheByte : Obligations.DataCompletesAndAppendsTheByte := fun b s =>
  ⟨s.bufAfterPush b, rfl, bufAfterPush_getElem s b⟩

/-- Settles O22: `PushByte` of the unmasked byte after `esc` is cleared. -/
theorem escapedDataCompletesAndAppendsTheUnmaskedByte : Obligations.EscapedDataCompletesAndAppendsTheUnmaskedByte := fun b s =>
  ⟨(s.setEsc false).bufAfterPush (b ^^^ 0x20), rfl, bufAfterPush_getElem (s.setEsc false) (b ^^^ 0x20)⟩

/-! ## The closing flag (spec/45_stream_processor.md section 1, spec/42_dispatcher.md) -/

/-- Settles O56: the rows' equations, which have no hypothesis. -/
theorem messageRowsCompleteInEveryState : Obligations.MessageRowsCompleteInEveryState :=
  ⟨exec_dispatchTr, exec_dispatchOga, fun id s => exec_dispatchUnknown id s⟩

section
variable {s : State}

/-! ### The row of the message ID -/

/-- `DISPATCH` of a payload that is not empty is the row its ID decodes to (R78, R150). -/
theorem exec_messageIdRow (hp : s.payloadLength ≠ 0) : exec (messageIdRow s.buf[0]) s = .next (dispatch s) := by
  rw [dispatch, if_neg hp, State.messageId, messageIdRow]
  split_ifs <;> rfl

/-- `FrameEnd` with a matching check value is `DISPATCH` (R137). -/
theorem frameEnd_of_rxCrc_eq (h2 : 2 ≤ s.cnt) (hcrc : s.rxCrc = s.crc) : frameEnd s = dispatch s := by
  obtain ⟨h1, -⟩ | ⟨-, hne, -⟩ | ⟨-, -, hv⟩ := validate_cases s
  · omega
  · exact absurd hcrc hne
  · exact frameEnd_of_valid (by omega) hv

/-! ### The messages of `FrameEnd` -/

/-- `FrameEnd` delivers a message only of the ID whose decoder it runs, from a payload long enough for it (R153, R154). -/
theorem frameEnd_message_cases {ev : Event} (h0 : s.cnt ≠ 0) (h : frameEnd s = s.emit ev) :
    (∃ d, ev = .error d) ∨ (ev = .trafficReport (decodeTr s.buf) ∧ s.buf[0] = 0x14 ∧ 30 ≤ s.cnt) ∨
    (ev = .ownshipGeometricAltitude (decodeOga s.ogaSlice) ∧ s.buf[0] = 0x0B ∧ 7 ≤ s.cnt) := by
  obtain ⟨-, hv⟩ | ⟨-, -, hv⟩ | ⟨h1, -, hv⟩ := validate_cases s
  case inl =>
    rw [frameEnd_of_invalid h0 hv] at h
    exact .inl ⟨_, (emit_inj h).symm⟩
  case inr.inl =>
    rw [frameEnd_of_invalid h0 hv] at h
    exact .inl ⟨_, (emit_inj h).symm⟩
  case inr.inr =>
    rw [frameEnd_of_valid h0 hv, dispatch_eq_of_two_le_cnt (by omega)] at h
    have hev := (emit_inj h).symm
    split_ifs at hev with hempty htr hshort hoga hshort
    · exact .inl ⟨_, hev⟩
    · exact .inl ⟨_, hev⟩
    · exact .inr (.inl ⟨hev, htr, Nat.le_of_not_lt hshort⟩)
    · exact .inl ⟨_, hev⟩
    · exact .inr (.inr ⟨hev, hoga, Nat.le_of_not_lt hshort⟩)
    · exact .inl ⟨_, hev⟩

end

theorem decodeTr_id (m : Vector Byte 28) : (decodeTr m).id = m[0] := rfl

theorem decodeOga_id (m : Vector Byte 5) : (decodeOga m).id = m[0] := rfl

/-- Settles O29: `DISPATCH` runs the row of `buf[0]`, and FRAME_END clears the frame after it. -/
theorem frameEndRunsTheRowOfItsMessageId : Obligations.FrameEndRunsTheRowOfItsMessageId := by
  intro s h3 hcrc
  have hp : s.payloadLength ≠ 0 := by
    rw [State.payloadLength]
    omega
  have hframe := frameEnd_of_rxCrc_eq (by omega) ((rxCrc_eq_append s).trans hcrc)
  refine ⟨messageIdRow s.buf[0], dispatch s, decode_messageId _, exec_messageIdRow hp, ?_⟩
  rw [dispatch_eq] at hframe ⊢
  exact exec_frameEnd_of_events hframe

theorem decodeTr_tag (m : Vector Byte 28) : (decodeTr m).tag = 0x14 := rfl

theorem decodeOga_tag (m : Vector Byte 5) : (decodeOga m).tag = 0x0B := rfl

theorem ogaSlice_getElem_zero (s : State) : s.ogaSlice[0] = s.buf[0] := rfl

/-- Settles O31: a step's event is `FrameEnd`'s, and a record's `id` is byte 0 of the store it is decoded from. -/
theorem everyMessageCarriesTheIdOfItsDecoder : Obligations.EveryMessageCarriesTheIdOfItsDecoder := by
  intro s s' ev h hev
  obtain ⟨h0, hframe⟩ := frameEnd_eq_emit_of_step h hev
  obtain ⟨d, rfl⟩ | ⟨rfl, hid, hlen⟩ | ⟨rfl, hid, hlen⟩ := frameEnd_message_cases h0 hframe
  case inl => exact ⟨fun _ hr => Event.noConfusion hr, fun _ hr => Event.noConfusion hr⟩
  case inr.inl =>
    refine ⟨fun r hr => ?_, fun _ hr => Event.noConfusion hr⟩
    rw [← Event.trafficReport.inj hr, decodeTr_tag, decodeTr_id]
    exact ⟨rfl, hid, hid, hlen⟩
  case inr.inr =>
    refine ⟨fun _ hr => Event.noConfusion hr, fun r hr => ?_⟩
    rw [← Event.ownshipGeometricAltitude.inj hr, decodeOga_tag, decodeOga_id, ogaSlice_getElem_zero]
    exact ⟨rfl, hid, hid, hlen⟩

/-! ## The events of a whole content (spec/10_state.md R29) -/

section
variable {p : List Byte} {lo hi : Byte}

/-! ### A content as a payload and its two check bytes -/

theorem exists_payload_of_two_le_length {F : List Byte} (h2 : 2 ≤ F.length) : ∃ p lo hi, F = p ++ [lo, hi] := by
  have hlen : (F.drop (F.length - 2)).length = 2 := by rw [List.length_drop]; omega
  obtain ⟨lo, hi, hdrop⟩ := List.length_eq_two.mp hlen
  exact ⟨F.take (F.length - 2), lo, hi, by rw [← hdrop, List.take_append_drop]⟩

theorem length_payload_append : (p ++ [lo, hi]).length = p.length + 2 := by simp

theorem take_payload_append : (p ++ [lo, hi]).take ((p ++ [lo, hi]).length - 2) = p := by simp

theorem contentCheckValue_append : contentCheckValue (p ++ [lo, hi]) = hi ++ lo := by
  simp [contentCheckValue]

theorem frameEvents_append :
    frameEvents (p ++ [lo, hi]) =
      if hi ++ lo = crcOf p then [payloadEvent p] else [.error (mismatchError (hi ++ lo) (crcOf p))] := by
  rw [frameEvents, if_neg (by simp), if_neg (by simp), contentCheckValue_append, take_payload_append]

/-! ### The registers of that content -/

variable {s : State}

/-- A byte of the payload below index 28 is in the frame store. -/
theorem HoldsContent.buf_eq_getD (h : HoldsContent s (p ++ [lo, hi])) {i : Nat} (h28 : i < 28) (hip : i < p.length) :
    s.buf[i] = p.getD i 0 := by
  rw [h.buf i h28 (by rw [length_payload_append]; omega), List.getElem_append_left hip, List.getD_eq_getElem _ _ hip]

/-- A payload that fills the frame store is read from it whole (R153). -/
theorem HoldsContent.buf_eq_ofFn (h : HoldsContent s (p ++ [lo, hi])) (h28 : 28 ≤ p.length) :
    s.buf = Vector.ofFn fun i => p.getD i.val 0 :=
  Vector.ext fun i hi => by rw [h.buf_eq_getD hi (by omega), Vector.getElem_ofFn]

/-- The five bytes of an ownship record are read from the frame store (R154). -/
theorem HoldsContent.ogaSlice_eq_ofFn (h : HoldsContent s (p ++ [lo, hi])) (h5 : 5 ≤ p.length) :
    s.ogaSlice = Vector.ofFn fun i => p.getD i.val 0 := by
  have hbuf : ∀ i (_ : i < 5), s.buf[i] = p.getD i 0 := fun i hi => h.buf_eq_getD (by omega) (by omega)
  simp only [State.ogaSlice, hbuf, Nat.reduceLT]
  rfl

variable (hw : 5 ≤ s.cntW)
include hw

/-- Up to 31 bytes the counter tells the content's length (R24). -/
theorem HoldsContent.cnt_lt_iff {F : List Byte} (h : HoldsContent s F) {k : Nat} (hk : k ≤ 31) :
    s.cnt < k ↔ F.length < k := by
  have hmax := cntMax_ge s hw
  rw [h.cnt]
  omega

theorem HoldsContent.payloadLength_lt_iff (h : HoldsContent s (p ++ [lo, hi])) {k : Nat} (hk : k ≤ 29) :
    s.payloadLength < k ↔ p.length < k := by
  have hcnt := h.cnt_lt_iff hw (k := k + 2) (by omega)
  have h2 := h.cnt_lt_iff hw (k := 2) (by omega)
  rw [length_payload_append] at hcnt h2
  rw [State.payloadLength]
  omega

/-- `DISPATCH` on the registers of a content gives the event read off its payload (R150 to R156). -/
theorem HoldsContent.dispatch_eq (h : HoldsContent s (p ++ [lo, hi])) : dispatch s = s.emit (payloadEvent p) := by
  have hempty : s.payloadLength = 0 ↔ p.length = 0 := by
    simpa only [Nat.lt_one_iff] using h.payloadLength_lt_iff hw (k := 1) (by omega)
  rw [Machine.dispatch_eq]
  cases p with
  | nil => rw [if_pos (hempty.mpr rfl), payloadEvent]
  | cons id p =>
    have hid : s.buf[0] = id := h.buf_eq_getD (by omega) (Nat.succ_pos _)
    rw [if_neg (hempty.not.mpr (by simp)), hid, payloadEvent]
    refine congrArg s.emit (ite_congr rfl (fun htr => ?trafficReport) fun _ =>
      ite_congr rfl (fun hoga => ?ownship) fun _ => rfl)
    case trafficReport =>
      refine ite_congr (propext (h.payloadLength_lt_iff hw (by omega))) (fun _ => by rw [htr]) fun hlong => ?_
      rw [h.buf_eq_ofFn (Nat.le_of_not_lt hlong)]
    case ownship =>
      refine ite_congr (propext (h.payloadLength_lt_iff hw (by omega))) (fun _ => by rw [hoga]) fun hlong => ?_
      rw [h.ogaSlice_eq_ofFn (Nat.le_of_not_lt hlong)]

/-- `FrameEnd` on the registers of a content appends the events read off the content (R29, R240). -/
theorem HoldsContent.frameEnd_eq {F : List Byte} (h : HoldsContent s F) :
    frameEnd s = { s with events := s.events ++ frameEvents F } := by
  have h1 := h.cnt_lt_iff hw (k := 1) (by omega)
  have h2 := h.cnt_lt_iff hw (k := 2) (by omega)
  by_cases hempty : F.length = 0
  case pos =>
    rw [frameEnd_of_empty (by omega), frameEvents, if_pos hempty, List.append_nil]
  have h0 : s.cnt ≠ 0 := by omega
  by_cases hshort : F.length = 1
  case pos =>
    have hv : validate s = some shortFrameError := if_pos (by omega)
    rw [frameEnd_of_invalid h0 hv, frameEvents, if_neg hempty, if_pos hshort]
    rfl
  obtain ⟨p, lo, hi, rfl⟩ := exists_payload_of_two_le_length (F := F) (by omega)
  have hrx := h.rxCrc (by omega)
  have hcrc := h.crc
  rw [contentCheckValue_append] at hrx
  rw [take_payload_append] at hcrc
  rw [frameEvents_append, ← hrx, ← hcrc]
  by_cases hmatch : s.rxCrc = s.crc
  case pos =>
    rw [if_pos hmatch, frameEnd_of_rxCrc_eq (by omega) hmatch, h.dispatch_eq hw]
    rfl
  case neg =>
    have hv : validate s = some (mismatchError s.rxCrc s.crc) := by
      rw [validate, if_neg (by omega), if_pos hmatch]
    rw [if_neg hmatch, frameEnd_of_invalid h0 hv]
    rfl

end

/-- Settles O48: `FrameEnd` appends the content's events, and `StartFrame` clears the rest. -/
theorem frameEndEmitsTheEventsOfTheWholeContent : Obligations.FrameEndEmitsTheEventsOfTheWholeContent := by
  intro s F hw hF
  refine ⟨(frameEnd s).startFrame, rfl, ?events, cleared_startFrame _, frameEnd_mode s⟩
  case events => rw [State.startFrame_events, hF.frameEnd_eq hw]

/-! ### A changed byte (spec/41_crc_validator.md R138) -/

/-- One byte of a matching content changed: a payload byte changes the computed check value only, a check byte the received one
only, so the two differ. -/
theorem checkValue_ne_of_set {F : List Byte} {k : Nat} {b : Byte} (h2 : 2 ≤ F.length)
    (hmatch : contentCheckValue F = crcOf (F.take (F.length - 2))) (hk : k < F.length) (hb : F[k]? ≠ some b) :
    contentCheckValue (F.set k b) ≠ crcOf ((F.set k b).take ((F.set k b).length - 2)) := by
  obtain ⟨p, lo, hi, rfl⟩ := exists_payload_of_two_le_length h2
  rw [contentCheckValue_append, take_payload_append] at hmatch
  rw [length_payload_append] at hk
  obtain hkp | rfl | rfl : k < p.length ∨ k = p.length ∨ k = p.length + 1 := by omega
  case inl =>
    rw [List.getElem?_append_left hkp] at hb
    rw [List.set_append_left _ _ hkp, contentCheckValue_append, take_payload_append, hmatch]
    exact (crcOf_set_ne p k b hkp hb).symm
  case inr.inl =>
    have hlo : lo ≠ b := by simpa using hb
    have hset : (p ++ [lo, hi]).set p.length b = p ++ [b, hi] := by simp
    rw [hset, contentCheckValue_append, take_payload_append, ← hmatch]
    exact fun heq => hlo ((BitVec.append_right_inj hi).mp heq).symm
  case inr.inr =>
    have hhi : hi ≠ b := by simpa using hb
    have hset : (p ++ [lo, hi]).set (p.length + 1) b = p ++ [lo, b] := by simp
    rw [hset, contentCheckValue_append, take_payload_append, ← hmatch]
    exact fun heq => hhi ((BitVec.append_left_inj lo).mp heq).symm

/-- A content of two bytes or more whose check value does not match has the one event of a mismatch (R136). -/
theorem frameEvents_of_checkValue_ne {F : List Byte} (h2 : 2 ≤ F.length)
    (hne : contentCheckValue F ≠ crcOf (F.take (F.length - 2))) :
    frameEvents F = [.error (mismatchError (contentCheckValue F) (crcOf (F.take (F.length - 2))))] := by
  rw [frameEvents, if_neg (by omega), if_neg (by omega), if_neg hne]

/-- Settles O44: the changed content does not match, and a closing flag gives its events. -/
theorem anySingleByteChangeIsReportedAsMismatch : Obligations.AnySingleByteChangeIsReportedAsMismatch := by
  intro s F k b hw h2 hmatch hk hb hF
  have hne := checkValue_ne_of_set h2 hmatch hk hb
  have hevents := frameEvents_of_checkValue_ne (F := F.set k b) (by rwa [List.length_set]) hne
  refine ⟨_, _, (frameEnd s).startFrame, hne, rfl, ?events⟩
  case events =>
    rw [State.startFrame_events, hF.frameEnd_eq hw, hevents]
    rfl

/-! ## The ranges of a Traffic Report (spec/43_traffic_report.md section 1) -/

theorem headingOfRaw_range (b : Byte) : 0 ≤ headingOfRaw b ∧ headingOfRaw b ≤ 11475 / 32 := by
  have hlow : (0 : Rat) ≤ b.toNat := Nat.cast_nonneg _
  have hhigh : (b.toNat : Rat) ≤ 255 := by exact_mod_cast Nat.le_of_lt_succ b.isLt
  rw [headingOfRaw_eq]
  constructor <;> linarith

/-- Settles O40: each range is read off the field's own statement, its bytes being below 256. -/
theorem trafficReportFieldsStayInTheirRanges : Obligations.TrafficReportFieldsStayInTheirRanges := by
  intro m
  obtain ⟨-, -, haltitude⟩ := trafficReportAltitudeHasOffsetAndSentinel m _ rfl
  obtain ⟨-, -, hhorizontal, -, -, hvertical⟩ := trafficReportVelocitiesHaveScaleAndSentinel m _ _ rfl rfl
  obtain ⟨htype, hstatus, hground⟩ := trafficReportSplitsTheMiscNibble m
  obtain ⟨hcallsign, -⟩ := callsignIsTrimmedOfTrailingNulsAndSpaces m _ rfl
  obtain ⟨hheadingLow, hheadingHigh⟩ := headingOfRaw_range m[17]
  have h11 := m[11].isLt
  have h12 := m[12].isLt
  have h14 := m[14].isLt
  have h15 := m[15].isLt
  have h16 := m[16].isLt
  obtain ⟨haltitudeLow, haltitudeHigh⟩ : -1000 ≤ (decodeTr m).altitudeFt ∧ (decodeTr m).altitudeFt ≤ 101350 := by
    rw [haltitude]
    split_ifs <;> omega
  have hkt : (decodeTr m).horizontalVelocityKt ≤ 4094 := by
    rw [hhorizontal]
    split_ifs <;> omega
  obtain ⟨hfpmLow, hfpmHigh⟩ : -131072 ≤ (decodeTr m).verticalVelocityFpm ∧ (decodeTr m).verticalVelocityFpm ≤ 131008 := by
    rw [hvertical]
    split_ifs <;> omega
  exact ⟨haltitudeLow, haltitudeHigh, hkt, hfpmLow, hfpmHigh, by omega, by omega, by omega, hcallsign, hheadingLow,
    hheadingHigh⟩

/-! ## The CRC (spec/41_crc_validator.md) -/

/-- Settles O42: the table and the CRC, evaluated. -/
theorem crcReproducesTheSpecsValues : Obligations.CrcReproducesTheSpecsValues := by
  refine ⟨?table, ?digits, ?payload, ?unknown, ?ownship⟩
  case table => simp [crcTable, crcShifts, crcShift]
  all_goals simp [crcOf, crcStep, crcTable, crcShifts, crcShift]

/-! ### Small payloads -/

theorem crcTable_zero : crcTable 0 = 0 := by decide

/-- While the register's high byte is 0 a step shifts the byte in and reduces nothing (R131, R139). -/
theorem crcStep_of_high_zero (a b : Byte) : crcStep (0#8 ++ a) b = a ++ b := by
  have hhigh : (0#8 ++ a).extractLsb' 8 8 = 0#8 := BitVec.extractLsb'_append_eq_left
  have hlow : (0#8 ++ a).extractLsb' 0 8 = a := BitVec.extractLsb'_append_eq_right
  apply crc_ext
  · rw [crcStep_high, hhigh, hlow, show crcTable 0#8 = 0 from crcTable_zero, BitVec.extractLsb'_append_eq_left]
    exact BitVec.zero_xor
  · rw [crcStep_low, hhigh, show crcTable 0#8 = 0 from crcTable_zero, BitVec.extractLsb'_append_eq_right]
    exact BitVec.zero_xor

/-- Settles O45: up to two bytes only enter the register. -/
theorem smallPayloadsAreTheirOwnCheckValue : Obligations.SmallPayloadsAreTheirOwnCheckValue := by
  have hone : ∀ a : Byte, crcOf [a] = 0#8 ++ a := crcStep_of_high_zero 0
  refine ⟨crcOf_nil, hone, fun a b => ?two⟩
  case two => rw [show [a, b] = [a] ++ [b] from rfl, crcOf_concat, hone, crcStep_of_high_zero]

/-! ### The remainder of the message polynomial -/

section
open Laws Polynomial

theorem messageBits_concat (s : List Byte) (b : Byte) : messageBits (s ++ [b]) = messageBits s ++ byteBits b := by
  simp [messageBits]

/-- The check value is the message up to a multiple of the generator: by induction on the message's last byte (R132). -/
theorem generator_dvd_message_sub_crc (s : List Byte) : generator ∣ bitsPoly (messageBits s) - crcPoly (crcOf s) := by
  induction s using List.reverseRecOn with
  | nil =>
    have hmessage : bitsPoly (messageBits []) = 0 := rfl
    have hcrc : crcPoly (crcOf []) = 0 := by simp [crcPoly_eq_sum, bitPoly_false]
    rw [hmessage, hcrc, sub_zero]
    exact dvd_zero _
  | append_singleton s b ih =>
    obtain ⟨k, hk⟩ := crcPoly_crcStep (crcOf s) b
    have hmessage : bitsPoly (messageBits (s ++ [b])) = bitsPoly (messageBits s) * X ^ 8 + bytePoly b := by
      rw [messageBits_concat, bitsPoly_append]
      rfl
    have hsplit : bitsPoly (messageBits (s ++ [b])) - crcPoly (crcOf (s ++ [b])) =
        (bitsPoly (messageBits s) - crcPoly (crcOf s)) * X ^ 8 - k * generator := by
      rw [hmessage, crcOf_concat, hk]
      ring
    rw [hsplit]
    exact dvd_sub (ih.mul_right _) (dvd_mul_left _ _)

theorem crcPoly_degree_lt (c : Crc16) : (crcPoly c).degree < generator.degree :=
  (bitsPoly_degree_lt (crcBits c)).trans_eq generator_degree.symm

/-- Settles O43: the check value is the message up to a multiple of the generator, and of lower degree than it. -/
theorem crcIsTheRemainderOfTheMessagePolynomial : Obligations.CrcIsTheRemainderOfTheMessagePolynomial := by
  intro poly hpoly s
  obtain rfl : poly = bitsPoly := funext hpoly
  calc
    crcPoly (crcOf s) = crcPoly (crcOf s) %ₘ generator :=
      ((modByMonic_eq_self_iff generator_monic).mpr (crcPoly_degree_lt _)).symm
    _ = bitsPoly (messageBits s) %ₘ generator :=
      (modByMonic_eq_of_dvd_sub generator_monic (generator_dvd_message_sub_crc s)).symm

end

/-! ## Fed streams (spec/40_framer.md section 3, spec/45_stream_processor.md section 4) -/

theorem feed_append (as bs : List Byte) (s : State) : feed (as ++ bs) s = feed bs (as.foldl byteStep s) := by
  rw [feed_eq_foldl, feed_eq_foldl, List.foldl_append]

theorem feed_append_eq_next (as bs : List Byte) (s : State) :
    feed (as ++ bs) s = .next (bs.foldl byteStep (as.foldl byteStep s)) :=
  (feed_append as bs s).trans (feed_eq_foldl bs _)

/-- Settles O51: a feed is a fold, and a fold of a concatenation is one fold after the other. -/
theorem feedingChunksIsFeedingTheirConcatenation : Obligations.FeedingChunksIsFeedingTheirConcatenation := fun as bs s =>
  ⟨as.foldl byteStep s, feed_eq_foldl as s, feed_append as bs s⟩

/-- Between frames: a legal counter, in FRAMING, with nothing of a frame received. -/
def BetweenFrames (s : State) : Prop := 5 ≤ s.cntW ∧ s.mode = .framing ∧ Cleared s

theorem byteStep_flag_betweenFrames {s : State} (hw : 5 ≤ s.cntW) (hm : s.mode ≠ .terminated) :
    BetweenFrames (byteStep s 0x7E) := by
  obtain ⟨hmode, hclear, -, hcntW, -, -⟩ := byteStep_flag s hm
  exact ⟨hcntW ▸ hw, hmode, hclear⟩

section
variable {s : State}

/-- A closing flag appends the events of the content the registers hold. -/
theorem byteStep_flag_events {F : List Byte} (hw : 5 ≤ s.cntW) (hm : s.mode = .framing) (hF : HoldsContent s F) :
    (byteStep s 0x7E).events = s.events ++ frameEvents F := by
  have hrow : exec (byteInstr s 0x7E) s = .next (frameEnd s).startFrame := by rw [byteInstr_of_framing _ hm]; rfl
  rw [byteStep_of_next hrow, State.respond_events, State.startFrame_events, hF.frameEnd_eq hw]

variable (p : List Byte)

theorem frameBytes_eq_cons : frameBytes p = 0x7E :: (frameBytes p).drop 1 := rfl

/-- After its opening flag a frame is a stuffed content and a closing flag (R82). -/
theorem foldl_frameBytes_drop_one_eq :
    ((frameBytes p).drop 1).foldl byteStep s = byteStep ((stuff (p ++ crcBytes p)).foldl byteStep s) 0x7E :=
  List.foldl_append

/-- The rest of a frame after its opening flag appends the payload's event. -/
theorem BetweenFrames.foldl_frameBytes_drop_one (h : BetweenFrames s) :
    BetweenFrames (((frameBytes p).drop 1).foldl byteStep s) ∧
    (((frameBytes p).drop 1).foldl byteStep s).events = s.events ++ [payloadEvent p] := by
  obtain ⟨hw, hm, hclear⟩ := h
  obtain ⟨hmode, -, hF, hcntW, -, hevents⟩ :=
    foldl_stuff (p ++ crcBytes p) s [] hw hm hclear.esc hclear.holdsContent_nil
  rw [← hcntW] at hw
  rw [foldl_frameBytes_drop_one_eq]
  refine ⟨byteStep_flag_betweenFrames hw (by rw [hmode]; decide), ?_⟩
  rw [byteStep_flag_events hw hmode hF, hevents, List.nil_append, frameEvents_payload]

/-- A whole frame appends the payload's event to those its opening flag leaves. -/
theorem foldl_frameBytes (hw : 5 ≤ s.cntW) (hm : s.mode ≠ .terminated) :
    BetweenFrames ((frameBytes p).foldl byteStep s) ∧
    ((frameBytes p).foldl byteStep s).events = (byteStep s 0x7E).events ++ [payloadEvent p] := by
  rw [frameBytes_eq_cons, List.foldl_cons]
  exact (byteStep_flag_betweenFrames hw hm).foldl_frameBytes_drop_one p

/-- Where no content is pending the opening flag adds no event. -/
theorem foldl_frameBytes_events (hw : 5 ≤ s.cntW) (hs : s.mode = .idle ∨ (s.mode = .framing ∧ s.cnt = 0)) :
    BetweenFrames ((frameBytes p).foldl byteStep s) ∧
    ((frameBytes p).foldl byteStep s).events = s.events ++ [payloadEvent p] := by
  have hm : s.mode ≠ .terminated := by
    obtain hm | ⟨hm, -⟩ := hs <;> rw [hm] <;> decide
  obtain ⟨-, -, -, -, -, hquiet⟩ := byteStep_flag s hm
  rw [← hquiet (hs.imp_right And.right)]
  exact foldl_frameBytes p hw hm

theorem BetweenFrames.foldl_frameBytes (h : BetweenFrames s) :
    BetweenFrames ((frameBytes p).foldl byteStep s) ∧
    ((frameBytes p).foldl byteStep s).events = s.events ++ [payloadEvent p] := by
  obtain ⟨hw, hm, hclear⟩ := h
  exact foldl_frameBytes_events p hw (.inr ⟨hm, hclear.cnt⟩)

/-- No byte sequence ends in TERMINATED (R249). -/
theorem foldl_byteStep_mode (bs : List Byte) (hm : s.mode ≠ .terminated) :
    (bs.foldl byteStep s).mode ≠ .terminated ∧ (bs.foldl byteStep s).cntW = s.cntW := by
  induction bs generalizing s with
  | nil => exact ⟨hm, rfl⟩
  | cons b bs ih =>
    obtain ⟨hmode, hcntW⟩ := byteStep_mode s b hm
    obtain ⟨hmode', hcntW'⟩ := ih hmode
    exact ⟨hmode', hcntW'.trans hcntW⟩

end

/-- Settles O52: the flag clears the frame, and the stuffed form of each byte appends it. -/
theorem unstuffingInvertsStuffing : Obligations.UnstuffingInvertsStuffing := by
  intro c s hw hm
  obtain ⟨hopen, hclear, hinput, hcntW, -, -⟩ := byteStep_flag s hm
  rw [← hcntW] at hw
  obtain ⟨hmode, hesc, hF, -, hinput', -⟩ := foldl_stuff c _ [] hw hopen hclear.esc hclear.holdsContent_nil
  exact ⟨_, feed_eq_foldl _ s, hmode, hesc, hF, hinput'.trans hinput⟩

/-- Settles O53: a quiet opening flag, and then the payload's event. -/
theorem frameOfAnyPayloadIsReceivedAsItsEvent : Obligations.FrameOfAnyPayloadIsReceivedAsItsEvent := by
  intro p s hw hs
  obtain ⟨⟨-, hmode, hclear⟩, hevents⟩ := foldl_frameBytes_events p hw hs
  exact ⟨_, feed_eq_foldl _ s, hevents, hmode, hclear⟩

/-- Settles O54: the first frame leaves the block between frames, where the second needs no opening flag and may have one. -/
theorem frameFedTwiceIsReportedTwiceAlike : Obligations.FrameFedTwiceIsReportedTwiceAlike := by
  intro p s hw hs
  obtain ⟨hbetween, hfirst⟩ := foldl_frameBytes_events p hw hs
  obtain ⟨-, hown⟩ := hbetween.foldl_frameBytes p
  obtain ⟨-, hshared⟩ := hbetween.foldl_frameBytes_drop_one p
  rw [hfirst, List.append_assoc] at hown hshared
  exact ⟨⟨_, feed_append_eq_next _ _ s, hown⟩, ⟨_, feed_append_eq_next _ _ s, hshared⟩⟩

/-- Settles O55: bytes leave the block in IDLE or FRAMING, and there a frame's event comes last. -/
theorem noByteSequenceStopsALaterFrame : Obligations.NoByteSequenceStopsALaterFrame := by
  intro bs p s hw hm
  obtain ⟨hmode, hcntW⟩ := foldl_byteStep_mode bs hm
  obtain ⟨⟨-, hopen, -⟩, hevents⟩ := foldl_frameBytes p (hcntW ▸ hw) hmode
  refine ⟨_, feed_append_eq_next bs _ s, hopen, ?last⟩
  case last => rw [hevents, List.getLast?_concat]

/-! ## Two counter widths (spec/10_state.md R24)
The rows compare the counter with numbers up to 30 only, and every legal counter counts past them before it saturates; so two
blocks that differ in the counter's width, and count the same bytes, run every row alike. -/

section
variable {s t : State} (h : SameButWidth s t)
include h

/-! ### What the two blocks share -/

theorem SameButWidth.mode_eq : t.mode = s.mode := (congrArg State.mode h.rest :)

theorem SameButWidth.esc_eq : t.esc = s.esc := (congrArg State.esc h.rest :)

theorem SameButWidth.buf_eq : t.buf = s.buf := (congrArg State.buf h.rest :)

theorem SameButWidth.crc_eq : t.crc = s.crc := (congrArg State.crc h.rest :)

theorem SameButWidth.tOld_eq : t.tOld = s.tOld := (congrArg State.tOld h.rest :)

theorem SameButWidth.tNew_eq : t.tNew = s.tNew := (congrArg State.tNew h.rest :)

theorem SameButWidth.input_eq : t.input = s.input := (congrArg State.input h.rest :)

theorem SameButWidth.events_eq : t.events = s.events := (congrArg State.events h.rest :)

theorem SameButWidth.responses_eq : t.responses = s.responses := (congrArg State.responses h.rest :)

theorem SameButWidth.rxCrc_eq : t.rxCrc = s.rxCrc := (congrArg State.rxCrc h.rest :)

theorem SameButWidth.ogaSlice_eq : t.ogaSlice = s.ogaSlice := (congrArg State.ogaSlice h.rest :)

/-- A presented transaction is the same row for both: the decoder reads `mode` and `esc` only (R73). -/
theorem SameButWidth.transactionInstr_eq (tx : Transaction) : transactionInstr t tx = transactionInstr s tx :=
  (congrArg (transactionInstr · tx) h.rest :)

/-! ### The two counters -/

/-- The counters agree, or both are past every number a row compares them with. -/
theorem SameButWidth.cnt_cases : t.cnt = s.cnt ∨ (31 ≤ s.cnt ∧ 31 ≤ t.cnt) := by
  obtain ⟨n, hs, ht⟩ := h.count
  have hsmax := cntMax_ge s h.widthLeft
  have htmax := cntMax_ge t h.widthRight
  omega

theorem SameButWidth.cnt_eq_iff {k : Nat} (hk : k < 31) : t.cnt = k ↔ s.cnt = k := by
  have hcnt := h.cnt_cases
  omega

theorem SameButWidth.payloadLength_lt_iff {k : Nat} (hk : k < 29) : t.payloadLength < k ↔ s.payloadLength < k := by
  have hcnt := h.cnt_cases
  simp only [State.payloadLength]
  omega

theorem SameButWidth.payloadLength_eq_zero_iff : t.payloadLength = 0 ↔ s.payloadLength = 0 := by
  have hcnt := h.cnt_cases
  simp only [State.payloadLength]
  omega

/-! ### The operations keep the relation -/

theorem SameButWidth.setMode (m : Mode) : SameButWidth (s.setMode m) (t.setMode m) :=
  ⟨h.widthLeft, h.widthRight, h.count, congrArg (State.setMode m) h.rest⟩

theorem SameButWidth.setEsc (e : Bool) : SameButWidth (s.setEsc e) (t.setEsc e) :=
  ⟨h.widthLeft, h.widthRight, h.count, congrArg (State.setEsc e) h.rest⟩

theorem SameButWidth.emit (ev : Event) : SameButWidth (s.emit ev) (t.emit ev) :=
  ⟨h.widthLeft, h.widthRight, h.count, congrArg (State.emit ev) h.rest⟩

theorem SameButWidth.consume (rest : List Offer) : SameButWidth (s.consume rest) (t.consume rest) :=
  ⟨h.widthLeft, h.widthRight, h.count, congrArg (State.consume rest) h.rest⟩

theorem SameButWidth.respond (accepted : Bool) : SameButWidth (s.respond accepted) (t.respond accepted) :=
  ⟨h.widthLeft, h.widthRight, h.count, congrArg (State.respond accepted) h.rest⟩

theorem SameButWidth.startFrame : SameButWidth s.startFrame t.startFrame :=
  ⟨h.widthLeft, h.widthRight, ⟨0, (Nat.zero_min _).symm, (Nat.zero_min _).symm⟩, (congrArg State.startFrame h.rest :)⟩

/-- One more byte is counted by both, each up to its own `CNT_MAX` (R23). -/
theorem SameButWidth.count_afterPush :
    ∃ n, s.cntAfterPush = min n s.cntMax ∧ t.cntAfterPush = min n t.cntMax := by
  obtain ⟨n, hs, ht⟩ := h.count
  refine ⟨n + 1, ?_, ?_⟩
  · rw [cntAfterPush_eq_min s (by omega)]
    omega
  · rw [cntAfterPush_eq_min t (by omega)]
    omega

/-- The byte that leaves the hold-back is folded in by both or by neither (R102). -/
theorem SameButWidth.crcAfterPush_eq : t.crcAfterPush = s.crcAfterPush := by
  have htwo : 2 ≤ t.cnt ↔ 2 ≤ s.cnt := by
    have hcnt := h.cnt_cases
    omega
  simp only [State.crcAfterPush, htwo, h.crc_eq, h.tOld_eq]

/-- A pushed byte is stored by both, at the same index, or by neither (R102). -/
theorem SameButWidth.bufAfterPush_eq (x : Byte) : t.bufAfterPush x = s.bufAfterPush x := by
  apply Vector.ext
  intro i hi
  have hindex : i = t.cnt ↔ i = s.cnt := by
    have hcnt := h.cnt_cases
    omega
  simp only [bufAfterPush_getElem _ x i hi, hindex, h.buf_eq]

theorem SameButWidth.pushByte (x : Byte) : SameButWidth (s.pushByte x) (t.pushByte x) where
  widthLeft := h.widthLeft
  widthRight := h.widthRight
  count := h.count_afterPush
  rest := by
    simp only [State.pushByte, h.crcAfterPush_eq, h.bufAfterPush_eq, h.mode_eq, h.esc_eq, h.tNew_eq, h.input_eq, h.events_eq,
      h.responses_eq]

/-! ### The closing flag -/

theorem SameButWidth.validate_eq : validate t = validate s := by
  simp only [validate, h.cnt_eq_iff (k := 1) (by omega), h.rxCrc_eq, h.crc_eq]

theorem SameButWidth.dispatchTr : SameButWidth (dispatchTr s) (dispatchTr t) := by
  rw [dispatchTr_eq, dispatchTr_eq]
  simp only [h.payloadLength_lt_iff (k := 28) (by omega), h.buf_eq]
  exact h.emit _

theorem SameButWidth.dispatchOga : SameButWidth (dispatchOga s) (dispatchOga t) := by
  rw [dispatchOga_eq, dispatchOga_eq]
  simp only [h.payloadLength_lt_iff (k := 5) (by omega), h.ogaSlice_eq]
  exact h.emit _

theorem SameButWidth.dispatch : SameButWidth (dispatch s) (dispatch t) := by
  rw [Machine.dispatch, Machine.dispatch, State.messageId, State.messageId, h.buf_eq]
  simp only [h.payloadLength_eq_zero_iff]
  split_ifs
  · exact h.emit _
  · exact h.dispatchTr
  · exact h.dispatchOga
  · exact h.emit _

theorem SameButWidth.frameEnd : SameButWidth (frameEnd s) (frameEnd t) := by
  have hzero : t.cnt = 0 ↔ s.cnt = 0 := h.cnt_eq_iff (by omega)
  by_cases h0 : s.cnt = 0
  case pos =>
    rw [frameEnd_of_empty h0, frameEnd_of_empty (hzero.mpr h0)]
    exact h
  have h0' : t.cnt ≠ 0 := hzero.not.mpr h0
  cases hv : validate s with
  | some d =>
    rw [frameEnd_of_invalid h0 hv, frameEnd_of_invalid h0' (h.validate_eq.trans hv)]
    exact h.emit _
  | none =>
    rw [frameEnd_of_valid h0 hv, frameEnd_of_valid h0' (h.validate_eq.trans hv)]
    exact h.dispatch

/-! ### Every row, and the step -/

/-- A row that completes for one block completes for the other, and keeps the relation. -/
theorem SameButWidth.exec_next {i : Instr} {s' : State} (hexec : exec i s = .next s') :
    ∃ t', exec i t = .next t' ∧ SameButWidth s' t' := by
  cases i with
  | terminatedByte b => cases hexec
  | huntDiscard b => cases hexec; exact ⟨t, rfl, h⟩
  | huntFlag | shutdown | reset => cases hexec; exact ⟨_, rfl, h.startFrame.setMode _⟩
  | frameEnd => cases hexec; exact ⟨_, rfl, h.frameEnd.startFrame⟩
  | escape => cases hexec; exact ⟨_, rfl, h.setEsc true⟩
  | data b => cases hexec; exact ⟨_, rfl, h.pushByte b⟩
  | escapedData b => cases hexec; exact ⟨_, rfl, (h.setEsc false).pushByte _⟩
  | dispatchTr => cases hexec; exact ⟨_, rfl, h.dispatchTr⟩
  | dispatchOga => cases hexec; exact ⟨_, rfl, h.dispatchOga⟩
  | dispatchUnknown id => cases hexec; exact ⟨_, rfl, h.emit _⟩

/-- `settle` looks at the events only, which are the same (R305). -/
theorem SameButWidth.settle_next (takes : Bool) {s' t' : State} (h' : SameButWidth s' t') :
    (∃ u v, settle takes s (.next s') = .next u ∧ settle takes t (.next t') = .next v ∧ SameButWidth u v) ∨
    ∃ f, settle takes s (.next s') = .fault f ∧ settle takes t (.next t') = .fault f := by
  simp only [settle, h.events_eq, h'.events_eq]
  split_ifs
  · exact .inr ⟨_, rfl, rfl⟩
  · exact .inl ⟨_, _, rfl, rfl, h'.respond true⟩

/-- Both blocks make the same step: to states that differ in the counter's width only, or to the same fault. -/
theorem SameButWidth.step_cases :
    (∃ s' t', step s = .next s' ∧ step t = .next t' ∧ SameButWidth s' t') ∨
    ∃ f, step s = .fault f ∧ step t = .fault f := by
  cases hin : s.input with
  | nil => exact .inl ⟨s, t, step_nil s hin, step_nil t (h.input_eq.trans hin), h⟩
  | cons o rest =>
    rw [step_cons s o rest hin, step_cons t o rest (h.input_eq.trans hin), h.transactionInstr_eq]
    have hc := h.consume rest
    obtain ⟨b, hi, -⟩ | ⟨s', hexec⟩ := exec_cases (transactionInstr s o.tx) (s.consume rest)
    case inl =>
      rw [hi, exec_terminatedByte, exec_terminatedByte]
      exact .inl ⟨_, _, rfl, rfl, hc.respond false⟩
    case inr =>
      obtain ⟨t', hexec', h'⟩ := hc.exec_next hexec
      rw [hexec, hexec']
      exact hc.settle_next o.hostTakes h'

end

/-- Settles O49: the step from two blocks that differ in the counter's width only. -/
theorem counterWidthIsNotObservable : Obligations.CounterWidthIsNotObservable := by
  intro s t h
  obtain ⟨s', t', hs, ht, h'⟩ | ⟨f, hs, ht⟩ := h.step_cases
  case inl =>
    refine ⟨fun u hu => ?_, fun f hf => ?_⟩
    · obtain rfl : s' = u := Host.Outcome.next.inj (hs.symm.trans hu)
      exact ⟨t', ht, h'⟩
    · rw [hs] at hf; cases hf
  case inr =>
    refine ⟨fun u hu => ?_, fun f' hf => ?_⟩
    · rw [hs] at hu; cases hu
    · obtain rfl : f = f' := Host.Outcome.fault.inj (hs.symm.trans hf)
      exact ht

end Sys2Proof
end
